-- ==== Sys2Proof/Word.lean ====
section
/-! DEFINITION. The word types of the synthesis block (spec/00_scope.md R9, R10). -/

namespace Sys2Proof

/-- A register byte, or the `reg` and `data` operands of a WRITE (R9, R131). -/
abbrev Byte := BitVec 8

/-- A command word (spec/30_encoding.md R130). -/
abbrev Word := BitVec 32

/-- One element of the host's output buffer, a signed 16-bit value (spec/20_memory.md R100). -/
abbrev Sample := BitVec 16

/-- The 11-bit period value of a pulse or triangle channel (spec/10_state.md R43, R44). -/
abbrev Timer := BitVec 11

end Sys2Proof
end

