-- ==== Sys2Proof/Syntax.lean ====
section
/-! DEFINITION. The commands of the block: one constructor for each row of spec/opcode_table.json
(spec/30_encoding.md R154; log entry 18). -/

namespace Sys2Proof

/-- A command. The rows that cover one register carry only `data`; the rows that cover a range of
registers carry `reg` too (R131). `render` carries `count` (R132). -/
inductive Instr where
  | writeP1Ctrl (data : Byte)
  | writeP1Sweep (data : Byte)
  | writeP1Tlo (data : Byte)
  | writeP1Len (data : Byte)
  | writeP2Ctrl (data : Byte)
  | writeP2Sweep (data : Byte)
  | writeP2Tlo (data : Byte)
  | writeP2Len (data : Byte)
  | writeTriCtrl (data : Byte)
  | writeTriUnused (data : Byte)
  | writeTriTlo (data : Byte)
  | writeTriLen (data : Byte)
  | writeNoiseCtrl (data : Byte)
  | writeNoiseUnused (data : Byte)
  | writeNoisePeriod (data : Byte)
  | writeNoiseLen (data : Byte)
  | writeDmcUnused (reg data : Byte)
  | write0x14 (data : Byte)
  | writeStatus (data : Byte)
  | write0x16 (data : Byte)
  | writeFrame (data : Byte)
  | writeIgn18 (reg data : Byte)
  | writeIgn20 (reg data : Byte)
  | writeIgn40 (reg data : Byte)
  | writeIgn80 (reg data : Byte)
  | render (count : Nat)
  | silence
deriving DecidableEq, Repr

end Sys2Proof
end

