-- ==== Sys2Proof/WellFormed.lean ====
section
/-! DEFINITION. Which commands have a word: each `reg` lies in its row's range and `count` fits its
30 bits (spec/30_encoding.md R131, R132, R154). -/

namespace Sys2Proof

/-- A command that some legal word spells. -/
def Instr.wf : Instr → Bool
  | .writeP1Ctrl _ => true
  | .writeP1Sweep _ => true
  | .writeP1Tlo _ => true
  | .writeP1Len _ => true
  | .writeP2Ctrl _ => true
  | .writeP2Sweep _ => true
  | .writeP2Tlo _ => true
  | .writeP2Len _ => true
  | .writeTriCtrl _ => true
  | .writeTriUnused _ => true
  | .writeTriTlo _ => true
  | .writeTriLen _ => true
  | .writeNoiseCtrl _ => true
  | .writeNoiseUnused _ => true
  | .writeNoisePeriod _ => true
  | .writeNoiseLen _ => true
  | .writeDmcUnused r _ => decide (0x10 ≤ r.toNat ∧ r.toNat < 0x14)
  | .write0x14 _ => true
  | .writeStatus _ => true
  | .write0x16 _ => true
  | .writeFrame _ => true
  | .writeIgn18 r _ => decide (0x18 ≤ r.toNat ∧ r.toNat < 0x20)
  | .writeIgn20 r _ => decide (0x20 ≤ r.toNat ∧ r.toNat < 0x40)
  | .writeIgn40 r _ => decide (0x40 ≤ r.toNat ∧ r.toNat < 0x80)
  | .writeIgn80 r _ => decide (0x80 ≤ r.toNat)
  | .render n => decide (n < 2 ^ 30)
  | .silence => true

end Sys2Proof
end

