-- ==== Sys2Proof/Decode.lean ====
section
/-! DEFINITION. The command word of spec/30_encoding.md R130 to R135: a decoder that is total on all
words and names why it rejects one, the opcode table's masks and matches, and the encoder. -/

namespace Sys2Proof

/-- Why a word spells no command (R134). -/
inductive Illegal where
  /-- Bits 31:30 are 0b11. -/
  | reservedKind
  /-- A WRITE with a nonzero bit in 29:16. -/
  | writeNonzero
  /-- A SILENCE with a nonzero bit in 29:0. -/
  | silenceNonzero
deriving DecidableEq, Repr

/-- Bits 31:30 (R130). -/
def wordKind (w : Word) : BitVec 2 := w.extractLsb' 30 2

/-- Bits 29:16 of a WRITE, which must be zero (R131). -/
def wordWriteZero (w : Word) : BitVec 14 := w.extractLsb' 16 14

/-- Bits 15:8 of a WRITE (R131). -/
def wordReg (w : Word) : Byte := w.extractLsb' 8 8

/-- Bits 7:0 of a WRITE (R131). -/
def wordData (w : Word) : Byte := w.extractLsb' 0 8

/-- Bits 29:0: the count of a RENDER (R132), and zero in a SILENCE (R133). -/
def wordCount (w : Word) : BitVec 30 := w.extractLsb' 0 30

/-- The row of a WRITE to register 0x18 or above (R135, R154). -/
def decodeIgnored (reg data : Byte) : Instr :=
  if reg.toNat < 0x20 then .writeIgn18 reg data
  else if reg.toNat < 0x40 then .writeIgn20 reg data
  else if reg.toNat < 0x80 then .writeIgn40 reg data
  else .writeIgn80 reg data

/-- The row of a legal WRITE (R154). -/
def decodeWrite (reg data : Byte) : Instr :=
  match reg.toNat with
  | 0x00 => .writeP1Ctrl data
  | 0x01 => .writeP1Sweep data
  | 0x02 => .writeP1Tlo data
  | 0x03 => .writeP1Len data
  | 0x04 => .writeP2Ctrl data
  | 0x05 => .writeP2Sweep data
  | 0x06 => .writeP2Tlo data
  | 0x07 => .writeP2Len data
  | 0x08 => .writeTriCtrl data
  | 0x09 => .writeTriUnused data
  | 0x0A => .writeTriTlo data
  | 0x0B => .writeTriLen data
  | 0x0C => .writeNoiseCtrl data
  | 0x0D => .writeNoiseUnused data
  | 0x0E => .writeNoisePeriod data
  | 0x0F => .writeNoiseLen data
  | 0x10 => .writeDmcUnused reg data
  | 0x11 => .writeDmcUnused reg data
  | 0x12 => .writeDmcUnused reg data
  | 0x13 => .writeDmcUnused reg data
  | 0x14 => .write0x14 data
  | 0x15 => .writeStatus data
  | 0x16 => .write0x16 data
  | 0x17 => .writeFrame data
  | _ => decodeIgnored reg data

/-- The command a word spells, or why it spells none (R130 to R135). -/
def decode (w : Word) : Except Illegal Instr :=
  if wordKind w = 0b00#2 then
    if wordWriteZero w = 0 then .ok (decodeWrite (wordReg w) (wordData w))
    else .error .writeNonzero
  else if wordKind w = 0b01#2 then .ok (.render (wordCount w).toNat)
  else if wordKind w = 0b10#2 then
    if wordCount w = 0 then .ok .silence else .error .silenceNonzero
  else .error .reservedKind

/-- The word of a WRITE (R131). -/
def writeWord (reg data : Byte) : Word := 0b00#2 ++ 0#14 ++ reg ++ data

/-- The word of a RENDER (R132). -/
def renderWord (count : BitVec 30) : Word := 0b01#2 ++ count

/-- The word of a SILENCE (R133). -/
def silenceWord : Word := 0b10#2 ++ 0#30

/-- The word of a well-formed command, by the encodings of R131 to R133 and the register numbers of
the opcode table (R154). -/
def encode : Instr → Word
  | .writeP1Ctrl d => writeWord 0x00 d
  | .writeP1Sweep d => writeWord 0x01 d
  | .writeP1Tlo d => writeWord 0x02 d
  | .writeP1Len d => writeWord 0x03 d
  | .writeP2Ctrl d => writeWord 0x04 d
  | .writeP2Sweep d => writeWord 0x05 d
  | .writeP2Tlo d => writeWord 0x06 d
  | .writeP2Len d => writeWord 0x07 d
  | .writeTriCtrl d => writeWord 0x08 d
  | .writeTriUnused d => writeWord 0x09 d
  | .writeTriTlo d => writeWord 0x0A d
  | .writeTriLen d => writeWord 0x0B d
  | .writeNoiseCtrl d => writeWord 0x0C d
  | .writeNoiseUnused d => writeWord 0x0D d
  | .writeNoisePeriod d => writeWord 0x0E d
  | .writeNoiseLen d => writeWord 0x0F d
  | .writeDmcUnused r d => writeWord r d
  | .write0x14 d => writeWord 0x14 d
  | .writeStatus d => writeWord 0x15 d
  | .write0x16 d => writeWord 0x16 d
  | .writeFrame d => writeWord 0x17 d
  | .writeIgn18 r d => writeWord r d
  | .writeIgn20 r d => writeWord r d
  | .writeIgn40 r d => writeWord r d
  | .writeIgn80 r d => writeWord r d
  | .render n => renderWord (BitVec.ofNat 30 n)
  | .silence => silenceWord

/-- The `mask` and `match` of each row of spec/opcode_table.json, in the table's order. -/
def opcodeRows : List (Word × Word) :=
  [(0xFFFFFF00#32, 0x00000000#32), (0xFFFFFF00#32, 0x00000100#32), (0xFFFFFF00#32, 0x00000200#32),
   (0xFFFFFF00#32, 0x00000300#32), (0xFFFFFF00#32, 0x00000400#32), (0xFFFFFF00#32, 0x00000500#32),
   (0xFFFFFF00#32, 0x00000600#32), (0xFFFFFF00#32, 0x00000700#32), (0xFFFFFF00#32, 0x00000800#32),
   (0xFFFFFF00#32, 0x00000900#32), (0xFFFFFF00#32, 0x00000A00#32), (0xFFFFFF00#32, 0x00000B00#32),
   (0xFFFFFF00#32, 0x00000C00#32), (0xFFFFFF00#32, 0x00000D00#32), (0xFFFFFF00#32, 0x00000E00#32),
   (0xFFFFFF00#32, 0x00000F00#32), (0xFFFFFC00#32, 0x00001000#32), (0xFFFFFF00#32, 0x00001400#32),
   (0xFFFFFF00#32, 0x00001500#32), (0xFFFFFF00#32, 0x00001600#32), (0xFFFFFF00#32, 0x00001700#32),
   (0xFFFFF800#32, 0x00001800#32), (0xFFFFE000#32, 0x00002000#32), (0xFFFFC000#32, 0x00004000#32),
   (0xFFFF8000#32, 0x00008000#32), (0xC0000000#32, 0x40000000#32), (0xFFFFFFFF#32, 0x80000000#32)]

/-- A word matches a row when its bits under the mask are the row's match (R135). -/
def matchesRow (w : Word) (row : Word × Word) : Bool := w &&& row.1 == row.2

/-- The position of a command's row in `opcodeRows`. -/
def Instr.rowIndex : Instr → Nat
  | .writeP1Ctrl _ => 0
  | .writeP1Sweep _ => 1
  | .writeP1Tlo _ => 2
  | .writeP1Len _ => 3
  | .writeP2Ctrl _ => 4
  | .writeP2Sweep _ => 5
  | .writeP2Tlo _ => 6
  | .writeP2Len _ => 7
  | .writeTriCtrl _ => 8
  | .writeTriUnused _ => 9
  | .writeTriTlo _ => 10
  | .writeTriLen _ => 11
  | .writeNoiseCtrl _ => 12
  | .writeNoiseUnused _ => 13
  | .writeNoisePeriod _ => 14
  | .writeNoiseLen _ => 15
  | .writeDmcUnused _ _ => 16
  | .write0x14 _ => 17
  | .writeStatus _ => 18
  | .write0x16 _ => 19
  | .writeFrame _ => 20
  | .writeIgn18 _ _ => 21
  | .writeIgn20 _ _ => 22
  | .writeIgn40 _ _ => 23
  | .writeIgn80 _ _ => 24
  | .render _ => 25
  | .silence => 26

/-- The command the decoder reads from a table row's bits. A command is one word, numbered as the
table numbers it, so the word is `w` itself with every bit above `nbits` zero. -/
def decodeTableWord (nbits w : Nat) : Option Instr :=
  match decode (BitVec.ofNat 32 (w % 2 ^ nbits)) with
  | .ok i => some i
  | .error _ => none

end Sys2Proof
end

