-- ==== Sys2Proof/Config.lean ====
section
/-! DEFINITION. The implementation parameters of spec/00_scope.md R7, as a record that every shared
operation takes as an argument. The values R7 fixes, which `exec` uses, are `Config.defaults` in
Machine/Defaults.lean. -/

namespace Sys2Proof

/-- What one step of the frame sequencer clocks (spec/00_scope.md R13, spec/41_apu_sequencer.md
R234 to R236): envelopes, length counters and sweeps, or nothing. -/
inductive FrameStep where
  | quarter
  | half
  | null
deriving DecidableEq, Repr, Inhabited

/-- The video standard that selects a noise period table (R7 `NOISE_STD`). -/
inductive VideoStd where
  | ntsc
  | pal
deriving DecidableEq, Repr

/-- The parameters of R7 that a model may take as arguments. Three of R7's are sizes of the state's
types and not fields here: `REGFILE_SIZE` = 0x18, `LFSR_WIDTH` = 15 and `HB_TAPS` = 9. -/
structure Config where
  /-- `F_OUT`, output samples per second. -/
  fOut : Nat
  /-- `OVERSAMPLE`, internal samples per output sample. -/
  oversample : Nat
  /-- `FS_RATE`, the nominal rate of the frame sequencer in Hz. -/
  fsRate : Nat
  /-- `APU_CLOCK` in Hz. -/
  apuClock : ℚ
  /-- `DUTY_TABLE`, in fractions of a period. -/
  dutyTable : Vector ℚ 4
  /-- `LENGTH_TABLE`. -/
  lengthTable : Vector Byte 32
  /-- `NOISE_TABLE_NTSC`. -/
  noiseTableNtsc : Vector Nat 16
  /-- `NOISE_TABLE_PAL`. -/
  noiseTablePal : Vector Nat 16
  /-- `NOISE_STD`. -/
  noiseStd : VideoStd
  /-- `NOISE_PERIOD_SCALE`, internal samples per table unit. -/
  noisePeriodScale : ℚ
  /-- `LFSR_SEED`. -/
  lfsrSeed : BitVec 15
  /-- `NOISE_TAP` of mode 0. -/
  noiseTap0 : Nat
  /-- `NOISE_TAP` of mode 1. -/
  noiseTap1 : Nat
  /-- `STEP_TABLE_4`. -/
  stepTable4 : List FrameStep
  /-- `STEP_TABLE_5`. -/
  stepTable5 : List FrameStep
  /-- `HB_COEFFS`. -/
  hbCoeffs : Vector ℚ 9
  /-- `K_BLEP`, the support of the step response. -/
  kBlep : Nat
  /-- `STEP_RESPONSE`, the band-limited step B. -/
  stepResponse : ℚ → ℚ
  /-- `GAIN` of pulse 1, pulse 2, triangle and noise. -/
  gain : Vector ℚ 4
  /-- `TRI_AMP`. -/
  triAmp : Nat
  /-- `DC_ALPHA`. -/
  dcAlpha : ℚ
  /-- `DITHER_SEED`. -/
  ditherSeed : BitVec 64
  /-- `DITHER_AMP` in least significant bits. -/
  ditherAmp : ℚ
  /-- `XORSHIFT_SHIFTS`: left, right, left. -/
  xorshiftA : Nat
  xorshiftB : Nat
  xorshiftC : Nat

namespace Config

/-- `F_INT`, internal samples per second (R7: derived). -/
def fInt (c : Config) : Nat := c.oversample * c.fOut

/-- `FS_PERIOD` = floor(F_OUT / FS_RATE), in output samples (R7, R230). -/
def fsPeriod (c : Config) : Nat := c.fOut / c.fsRate

/-- DESIGN CHOICE (log entry 9): what a frame tick clocks when the step index lies beyond its table.
A free value: R231 states that the index is below the table's length whenever a tick runs. -/
opaque stepBeyondTable : Nat → FrameStep

/-- The conditions the rules put on the parameters: R321 (positive scale), R356 (symmetry, unity DC
gain, half-band zeros), R290 (the step response's ends), R53 (nonzero seeds), R232 and R233 (table
lengths), and a duty strictly inside the period. -/
structure Wf (c : Config) : Prop where
  fOut_pos : 0 < c.fOut
  oversample_pos : 0 < c.oversample
  fsPeriod_pos : 0 < c.fsPeriod
  apuClock_pos : 0 < c.apuClock
  duty_pos : ∀ i : Fin 4, 0 < c.dutyTable[i]
  duty_lt_one : ∀ i : Fin 4, c.dutyTable[i] < 1
  noiseNtsc_pos : ∀ i : Fin 16, 0 < c.noiseTableNtsc[i]
  noisePal_pos : ∀ i : Fin 16, 0 < c.noiseTablePal[i]
  noisePeriodScale_pos : 0 < c.noisePeriodScale
  lfsrSeed_ne : c.lfsrSeed ≠ 0
  stepTable4_length : c.stepTable4.length = 4
  stepTable5_length : c.stepTable5.length = 5
  hb_symmetric : ∀ i : Fin 9, c.hbCoeffs[i] = c.hbCoeffs[i.rev]
  hb_unity : c.hbCoeffs.toList.sum = 1
  hb_centre : c.hbCoeffs[4] = 1 / 2
  hb_zeros : c.hbCoeffs[0] = 0 ∧ c.hbCoeffs[2] = 0 ∧ c.hbCoeffs[6] = 0 ∧ c.hbCoeffs[8] = 0
  step_low : ∀ t : ℚ, t ≤ 0 → c.stepResponse t = 0
  step_high : ∀ t : ℚ, (c.kBlep : ℚ) ≤ t → c.stepResponse t = 1
  ditherSeed_ne : c.ditherSeed ≠ 0

end Config

end Sys2Proof
end

