-- ==== Sys2Proof/Machine/Defaults.lean ====
section
/-! DEFINITION. The default parameter values of spec/00_scope.md R7 (log entry 8). -/

namespace Sys2Proof

namespace Config

/-- The box step B(t) = clamp(t, 0, 1) (R7 `STEP_RESPONSE`, spec/42_oscillators.md R290). -/
def boxStep (t : ℚ) : ℚ := min (max t 0) 1

/-- The defaults of R7. -/
def defaults : Config where
  fOut := 44100
  oversample := 2
  fsRate := 240
  apuClock := 1789773
  dutyTable := #v[1/8, 1/4, 1/2, 3/4]
  lengthTable := #v[10, 254, 20, 2, 40, 4, 80, 6, 160, 8, 60, 10, 14, 12, 26, 14,
    12, 16, 24, 18, 48, 20, 96, 22, 192, 24, 72, 26, 16, 28, 32, 30]
  noiseTableNtsc := #v[4, 8, 16, 32, 64, 96, 128, 160, 202, 254, 380, 508, 762, 1016, 2034, 4068]
  noiseTablePal := #v[4, 8, 14, 30, 60, 88, 118, 148, 188, 236, 354, 472, 708, 944, 1890, 3778]
  noiseStd := .pal
  noisePeriodScale := 1
  lfsrSeed := 1
  noiseTap0 := 1
  noiseTap1 := 6
  stepTable4 := [.quarter, .half, .quarter, .half]
  stepTable5 := [.quarter, .half, .quarter, .half, .null]
  hbCoeffs := #v[0, -1/32, 0, 9/32, 1/2, 9/32, 0, -1/32, 0]
  kBlep := 1
  stepResponse := boxStep
  gain := #v[512, 512, 512, 512]
  triAmp := 15
  dcAlpha := 1 / 65536
  ditherSeed := 88172645463325252
  ditherAmp := 1
  xorshiftA := 13
  xorshiftB := 7
  xorshiftC := 17

end Config

end Sys2Proof
end

