-- ==== Sys2Proof/Machine/State.lean ====
section
/-! DEFINITION. The machine's state as plain data: the block's record S (spec/10_state.md R40 to R51)
and the interface to its host (spec/20_memory.md R107, spec/44_control.md R400 to R406), with the
ways a step can stop and the state after reset (R53). -/

namespace Sys2Proof.Machine

/-- An envelope unit (spec/10_state.md R43, R45, spec/41_apu_sequencer.md R240). -/
structure Envelope where
  start : Bool
  divider : BitVec 4
  decay : BitVec 4
deriving DecidableEq, Repr

/-- The divider and the reload flag of a sweep unit (R43). -/
structure Sweep where
  divider : BitVec 3
  reload : Bool
deriving DecidableEq, Repr

/-- A band-limited pulse oscillator (R47). `ring` holds K_BLEP + 1 residuals, the next sample's
first. -/
structure PulseOsc where
  phase : ℚ
  dutyPrev : ℚ
  ring : List ℚ
deriving DecidableEq, Repr

/-- A pulse channel (R43). -/
structure Pulse where
  timer : Timer
  length : Byte
  env : Envelope
  sweep : Sweep
  osc : PulseOsc
deriving DecidableEq, Repr

/-- The triangle channel (R44, R48). -/
structure Triangle where
  timer : Timer
  length : Byte
  phase : ℚ
deriving DecidableEq, Repr

/-- The noise channel (R45). -/
structure Noise where
  length : Byte
  env : Envelope
  lfsr : BitVec 15
  count : ℚ
deriving DecidableEq, Repr

/-- The frame sequencer (R46): the index of the next step and the output samples to the next tick. -/
structure FrameSeq where
  step : Nat
  countdown : Nat
deriving DecidableEq, Repr

/-- The block's whole state S (R40). -/
structure Block where
  /-- The register file (R42). -/
  regs : Vector Byte 24
  /-- `S.pulse[0]`, pulse 1. -/
  pulse1 : Pulse
  /-- `S.pulse[1]`, pulse 2. -/
  pulse2 : Pulse
  tri : Triangle
  noise : Noise
  fs : FrameSeq
  /-- The delay line of the decimation filter, newest first (R49). -/
  hb : Vector ℚ 9
  /-- The DC estimate (R50). -/
  dc : ℚ
  /-- The dither generator's state word (R51). -/
  rng : BitVec 64
deriving DecidableEq, Repr

/-- An output buffer (spec/20_memory.md R100, R107): `size` elements, of which `cells` lists those
that are not 0, by rising index (log entry 4). -/
structure Memory where
  size : Nat
  cells : List (Nat × Sample)
deriving DecidableEq, Repr

/-- One command as the host issues it: its word and the buffer lent with it (spec/30_encoding.md
R130, R132). A command other than RENDER makes no use of the buffer. -/
structure Call where
  word : Word
  out : Memory
deriving DecidableEq, Repr

structure State where
  /-- The block's record S. -/
  blk : Block
  /-- The buffer lent with the command being executed (spec/20_memory.md R107). -/
  out : Memory
  /-- Commands issued and not yet executed, oldest first (spec/44_control.md R400; log entry 1). -/
  pending : List Call
  /-- Each RENDER's buffer after it, oldest first: what a run shows (R406; log entry 19). -/
  returned : List Memory
  /-- The refusal mark (R404; log entry 3). -/
  refusalMark : Bool
deriving DecidableEq, Repr

/-- The block has no fault: no command raises an exception (spec/60_exceptions.md R430), and the
spec never uses the treatments `fault` and `stuck` (spec/93_implementation_defined.md Part A). -/
inductive Fault
deriving DecidableEq, Repr

/-- Why the model gives a step no meaning. -/
inductive Refusal where
  /-- `exec` raises it for an instruction that has no meaning yet. Safe. -/
  | notModelled (mnemonic : String)
  /-- `step` raises it for a word that spells no command (spec/30_encoding.md R134,
  spec/44_control.md R404). Safe: the spec refuses these words. -/
  | illegalCommand (why : Illegal) (word : Word)
  /-- RENDER raises it for a buffer shorter than its count (spec/20_memory.md R107,
  spec/93_implementation_defined.md I6). Safe: the spec refuses such a call. -/
  | shortBuffer (count size : Nat)
  /-- `step` raises it once the refusal mark is set: "A refused run has no meaning under the model"
  (R404). Safe. -/
  | refusedRun
deriving DecidableEq, Repr

/-- An envelope after reset (R53). -/
def Envelope.reset : Envelope := ⟨false, 0, 0⟩

/-- A pulse channel after reset (R53). -/
def Pulse.reset : Pulse where
  timer := 0
  length := 0
  env := Envelope.reset
  sweep := ⟨0, false⟩
  osc := ⟨0, Config.defaults.dutyTable[0], List.replicate (Config.defaults.kBlep + 1) 0⟩

/-- The block after reset, which is its construction (R53, spec/70_reset_and_hazards.md R460). -/
def Block.reset : Block where
  regs := Vector.replicate 24 0
  pulse1 := Pulse.reset
  pulse2 := Pulse.reset
  tri := ⟨0, 0, 0⟩
  noise := ⟨0, Envelope.reset, Config.defaults.lfsrSeed, 0⟩
  fs := ⟨0, Config.defaults.fsPeriod⟩
  hb := Vector.replicate 9 0
  dc := 0
  rng := Config.defaults.ditherSeed

/-- The machine after reset: the block constructed, no command issued, no buffer lent (log entry
7). -/
def State.reset : State where
  blk := Block.reset
  out := ⟨0, []⟩
  pending := []
  returned := []
  refusalMark := false

end Sys2Proof.Machine
end

