-- ==== Sys2Proof/Machine/Operands.lean ====
section
/-! DEFINITION. The field views of the register bytes (spec/30_encoding.md R140 to R152), the values
assembled from them (R153), and which channel a register belongs to. -/

namespace Sys2Proof.Machine

/-! Fields of one register byte -/

/-- `DUTY`, pulse register 0 bits 7:6 (R141). -/
def dutyIndex (r : Byte) : BitVec 2 := r.extractLsb' 6 2

/-- `LH`, register 0 bit 5 of pulse and noise: envelope loop and length halt (R141, R146, R252). -/
def loopHalt (r : Byte) : Bool := r.getLsbD 5

/-- `CV`, register 0 bit 4 of pulse and noise (R141, R146). -/
def constVolume (r : Byte) : Bool := r.getLsbD 4

/-- `V`, register 0 bits 3:0 of pulse and noise (R141, R146). -/
def volume (r : Byte) : BitVec 4 := r.extractLsb' 0 4

/-- `SE`, sweep register bit 7 (R142). -/
def sweepEnable (r : Byte) : Bool := r.getLsbD 7

/-- `SP`, sweep register bits 6:4 (R142). -/
def sweepPeriod (r : Byte) : BitVec 3 := r.extractLsb' 4 3

/-- `SN`, sweep register bit 3 (R142). -/
def sweepNegate (r : Byte) : Bool := r.getLsbD 3

/-- `SS`, sweep register bits 2:0 (R142). -/
def sweepShift (r : Byte) : BitVec 3 := r.extractLsb' 0 3

/-- `LI`, 4th register bits 7:3 (R144, R148). -/
def lengthIndex (r : Byte) : BitVec 5 := r.extractLsb' 3 5

/-- `THI`, 4th register bits 2:0 of pulse and triangle (R144). -/
def timerHigh (r : Byte) : BitVec 3 := r.extractLsb' 0 3

/-- `TH`, triangle register 0 bit 7 (R145). -/
def triHalt (r : Byte) : Bool := r.getLsbD 7

/-- `NM`, noise register 2 bit 7 (R147). -/
def noiseMode (r : Byte) : Bool := r.getLsbD 7

/-- `NP`, noise register 2 bits 3:0 (R147). -/
def noisePeriodIndex (r : Byte) : BitVec 4 := r.extractLsb' 0 4

/-- `EN_P1`, status bit 0 (R150). -/
def enableP1 (r : Byte) : Bool := r.getLsbD 0

/-- `EN_P2`, status bit 1 (R150). -/
def enableP2 (r : Byte) : Bool := r.getLsbD 1

/-- `EN_T`, status bit 2 (R150). -/
def enableTri (r : Byte) : Bool := r.getLsbD 2

/-- `EN_N`, status bit 3 (R150). -/
def enableNoise (r : Byte) : Bool := r.getLsbD 3

/-- `FM`, frame-sequencer register bit 7: 5-step when set (R152). -/
def fiveStep (r : Byte) : Bool := r.getLsbD 7

/-! Values assembled from fields (R153) -/

/-- `DUTY_TABLE[DUTY]`. -/
def dutyOf (c : Config) (r0 : Byte) : ℚ := c.dutyTable[(dutyIndex r0).toFin]

/-- `LENGTH_TABLE[LI]`. -/
def lengthOf (c : Config) (li : BitVec 5) : Byte := c.lengthTable[li.toFin]

/-- `NOISE_TABLE_<NOISE_STD>[NP]`, in table units. -/
def noiseTableEntry (c : Config) (np : BitVec 4) : Nat :=
  match c.noiseStd with
  | .ntsc => c.noiseTableNtsc[np.toFin]
  | .pal => c.noiseTablePal[np.toFin]

/-- The noise period P in internal samples (spec/42_oscillators.md R321). -/
def noisePeriod (c : Config) (r2 : Byte) : ℚ :=
  noiseTableEntry c (noisePeriodIndex r2) * c.noisePeriodScale

/-- `{t[10:8], data}`: a timer-low write (spec/40_apu_writes.md R173). -/
def withTimerLow (t : Timer) (data : Byte) : Timer := t.extractLsb' 8 3 ++ data

/-- `{data[2:0], t[7:0]}`: the timer part of a 4th-register write (R174). -/
def withTimerHigh (t : Timer) (data : Byte) : Timer := timerHigh data ++ t.extractLsb' 0 8

/-! Channels and their registers (spec/20_memory.md R101) -/

/-- Which pulse channel: `p` = 0 or 1 in spec/10_state.md R43. -/
inductive PulseIx where
  | p1
  | p2
deriving DecidableEq, Repr

/-- `S.pulse[p]`. -/
def Block.pulse (b : Block) : PulseIx → Pulse
  | .p1 => b.pulse1
  | .p2 => b.pulse2

/-- The block with `S.pulse[p]` replaced. -/
def Block.setPulse (b : Block) (p : PulseIx) (x : Pulse) : Block :=
  match p with
  | .p1 => { b with pulse1 := x }
  | .p2 => { b with pulse2 := x }

/-- `regs[4p]`, the control register of pulse channel p. -/
def Block.pulseCtrl (b : Block) : PulseIx → Byte
  | .p1 => b.regs[0x00]
  | .p2 => b.regs[0x04]

/-- `regs[4p+1]`, the sweep register of pulse channel p. -/
def Block.pulseSweep (b : Block) : PulseIx → Byte
  | .p1 => b.regs[0x01]
  | .p2 => b.regs[0x05]

/-- The triangle's control register. -/
def Block.triCtrl (b : Block) : Byte := b.regs[0x08]

/-- The noise channel's control register. -/
def Block.noiseCtrl (b : Block) : Byte := b.regs[0x0C]

/-- The noise channel's mode and period register. -/
def Block.noiseModePeriod (b : Block) : Byte := b.regs[0x0E]

/-- The status register. -/
def Block.status (b : Block) : Byte := b.regs[0x15]

/-- The frame-sequencer register. -/
def Block.frameMode (b : Block) : Byte := b.regs[0x17]

end Sys2Proof.Machine
end

