-- ==== Sys2Proof/Machine/Ops.lean ====
section
/-! DEFINITION. The named operations over registers, the output buffer and signal values that every
meaning shares. The block takes no exception and returns from none (spec/60_exceptions.md R430,
R436), so there is no exception entry here. -/

namespace Sys2Proof.Machine

/-! Arithmetic of spec/00_scope.md R10 -/

/-- `frac(x) = x - floor(x)`. -/
def frac (x : ℚ) : ℚ := x - ⌊x⌋

/-- `trunc(x)`, rounding toward zero. -/
def trunc (x : ℚ) : ℤ := if x < 0 then -⌊-x⌋ else ⌊x⌋

/-- `clamp(x, lo, hi) = min(max(x, lo), hi)`. -/
def clamp (x lo hi : ℚ) : ℚ := min (max x lo) hi

/-- `sat16(x) = clamp(x, -32768, 32767)` on integers. -/
def sat16 (x : ℤ) : ℤ := min (max x (-32768)) 32767

/-! The register file (spec/20_memory.md R100 to R105) -/

/-- `regs[reg] <- data`, ignored for `reg ≥ 0x18` (spec/40_apu_writes.md R170, R192). -/
def Block.store (b : Block) (reg data : Byte) : Block :=
  if h : reg.toNat < 24 then
    { b with regs := b.regs.set reg.toNat data h }
  else b

/-- A command's effect on the block alone: the host's side of the state stays as it is. -/
def State.mapBlock (s : State) (f : Block → Block) : State := { s with blk := f s.blk }

/-! The output buffer (spec/20_memory.md R107) -/

/-- The sample listed for index `i`, or 0. -/
def cellsRead : List (Nat × Sample) → Nat → Sample
  | [], _ => 0#16
  | (j, v) :: rest, i => if j = i then v else cellsRead rest i

/-- The cells with index `i` holding `v`, in canonical form: rising indices, no listed 0. -/
def cellsWrite : List (Nat × Sample) → Nat → Sample → List (Nat × Sample)
  | [], i, v => if v = 0#16 then [] else [(i, v)]
  | (j, u) :: rest, i, v =>
    if i < j then
      if v = 0#16 then (j, u) :: rest else (i, v) :: (j, u) :: rest
    else if i = j then
      if v = 0#16 then rest else (i, v) :: rest
    else (j, u) :: cellsWrite rest i v

/-- Indices from `lo` on, strictly rising, below `size`, and no listed 0. -/
def cellsWf (size : Nat) : Nat → List (Nat × Sample) → Bool
  | _, [] => true
  | lo, (j, v) :: rest =>
    decide (lo ≤ j) && decide (j < size) && decide (v ≠ 0#16) && cellsWf size (j + 1) rest

/-- `MemRead(i, 2)` for an element of the buffer. -/
def Memory.read (m : Memory) (i : Nat) : Sample := cellsRead m.cells i

/-- `MemWrite(i, 2, v)` for an element of the buffer. -/
def Memory.write (m : Memory) (i : Nat) (v : Sample) : Memory :=
  { m with cells := cellsWrite m.cells i v }

/-- The canonical form of a buffer. -/
def Memory.wf (m : Memory) : Bool := cellsWf m.size 0 m.cells

/-- A zero-filled buffer of `n` elements. -/
def Memory.zeros (n : Nat) : Memory := ⟨n, []⟩

/-- The buffer that holds these samples in order. -/
def Memory.ofList (l : List Sample) : Memory :=
  ⟨l.length, (l.zipIdx.filter fun p => p.1 != 0).map fun p => (p.2, p.1)⟩

/-- `MemWrite(i, 2, sat16(MemRead(i, 2) + q))` (spec/43_mixer.md R368). -/
def Memory.accumulate (m : Memory) (i : Nat) (q : ℤ) : Memory :=
  m.write i (BitVec.ofInt 16 (sat16 ((m.read i).toInt + q)))

end Sys2Proof.Machine
end

