-- ==== Sys2Proof/Machine/Flags.lean ====
section
/-! DEFINITION. The block's flag-like state (spec/10_state.md R52): setting the envelope start and
sweep reload flags, and the conditions computed from flag bits: effective volume, channel gates and
amplitudes (spec/41_apu_sequencer.md R241, R246, R263, R270, R271). -/

namespace Sys2Proof.Machine

/-- `env_start(e)` (R246). -/
def envStart (e : Envelope) : Envelope := { e with start := true }

/-- `sweep_reload_set(ch)` (R263). -/
def sweepReloadSet (p : Pulse) : Pulse := { p with sweep := { p.sweep with reload := true } }

/-- `effvol(e, reg0)` (R241). -/
def effectiveVolume (e : Envelope) (r0 : Byte) : BitVec 4 :=
  if constVolume r0 then volume r0 else e.decay

/-- The status-register enable bit of a pulse channel (R150). -/
def pulseEnable (status : Byte) : PulseIx → Bool
  | .p1 => enableP1 status
  | .p2 => enableP2 status

/-- `gate_p1` and `gate_p2` (R270). -/
def gatePulse (b : Block) (p : PulseIx) : Bool :=
  pulseEnable b.status p && (b.pulse p).length != 0 &&
    effectiveVolume (b.pulse p).env (b.pulseCtrl p) != 0

/-- `gate_t` (R270). -/
def gateTri (b : Block) : Bool := enableTri b.status && b.tri.length != 0

/-- `gate_n` (R270). -/
def gateNoise (b : Block) : Bool :=
  enableNoise b.status && b.noise.length != 0 && effectiveVolume b.noise.env b.noiseCtrl != 0

/-- The four channel amplitudes of R271. -/
structure Amplitudes where
  p1 : Nat
  p2 : Nat
  tri : Nat
  noise : Nat
deriving DecidableEq, Repr

/-- `A_p1` and `A_p2` (R271). -/
def amplitudePulse (b : Block) (p : PulseIx) : Nat :=
  if gatePulse b p then (effectiveVolume (b.pulse p).env (b.pulseCtrl p)).toNat else 0

/-- `A_t` (R271). -/
def amplitudeTri (c : Config) (b : Block) : Nat := if gateTri b then c.triAmp else 0

/-- `A_n` (R271). -/
def amplitudeNoise (b : Block) : Nat :=
  if gateNoise b then (effectiveVolume b.noise.env b.noiseCtrl).toNat else 0

/-- The amplitudes of one output sample (R271, R272). -/
def amplitudes (c : Config) (b : Block) : Amplitudes where
  p1 := amplitudePulse b .p1
  p2 := amplitudePulse b .p2
  tri := amplitudeTri c b
  noise := amplitudeNoise b

end Sys2Proof.Machine
end

