-- ==== Sys2Proof/Machine/Sequencer.lean ====
section
/-! DEFINITION. The envelope, length-counter and sweep units and the frame sequencer that clocks them
(spec/41_apu_sequencer.md R230 to R264). -/

namespace Sys2Proof.Machine

/-! Envelope unit -/

/-- `clock_envelope(e, reg0)` (R245). -/
def clockEnvelope (e : Envelope) (r0 : Byte) : Envelope :=
  if e.start then ⟨false, volume r0, 15⟩
  else if e.divider = 0 then
    { e with
      divider := volume r0
      decay := if e.decay = 0 then (if loopHalt r0 then 15 else 0) else e.decay - 1 }
  else { e with divider := e.divider - 1 }

/-! Length counter -/

/-- The new value of a length counter clocked with this halt bit (R251). -/
def clockLength (length : Byte) (halt : Bool) : Byte :=
  if halt = false ∧ length ≠ 0 then length - 1 else length

/-! Sweep unit -/

/-- The sweep target of a pulse channel with timer `t` and sweep register `r1`, an integer with no
wrap-around (R260). Pulse 1 negates by ones' complement, pulse 2 by two's complement. -/
def sweepTarget (p : PulseIx) (r1 : Byte) (t : Timer) : ℤ :=
  let shifted : ℤ := (t >>> (sweepShift r1).toNat).toNat
  if sweepNegate r1 then
    match p with
    | .p1 => t.toNat - shifted - 1
    | .p2 => t.toNat - shifted
  else t.toNat + shifted

/-- When a half-frame clock changes the timer (R261). -/
def sweepUpdates (p : PulseIx) (r1 : Byte) (x : Pulse) : Bool :=
  x.sweep.divider == 0 && sweepEnable r1 && sweepShift r1 != 0 && decide (8 ≤ x.timer.toNat) &&
    decide (0 ≤ sweepTarget p r1 x.timer) && decide (sweepTarget p r1 x.timer ≤ 0x7FF)

/-- `clock_sweep(p)`, timer part (R261). -/
def clockSweepTimer (p : PulseIx) (r1 : Byte) (x : Pulse) : Pulse :=
  if sweepUpdates p r1 x then { x with timer := BitVec.ofInt 11 (sweepTarget p r1 x.timer) } else x

/-- `clock_sweep(p)`, divider part (R262). -/
def clockSweepDivider (r1 : Byte) (x : Pulse) : Pulse :=
  if x.sweep.divider = 0 ∨ x.sweep.reload = true then
    { x with sweep := ⟨sweepPeriod r1, false⟩ }
  else { x with sweep := { x.sweep with divider := x.sweep.divider - 1 } }

/-- `clock_sweep(p)`: the timer part, then the divider part (R261, R262). -/
def clockSweep (p : PulseIx) (r1 : Byte) (x : Pulse) : Pulse :=
  clockSweepDivider r1 (clockSweepTimer p r1 x)

/-! Frame sequencer -/

/-- The envelope of a pulse channel clocked (R234). -/
def clockPulseEnvelope (b : Block) (p : PulseIx) : Pulse :=
  { b.pulse p with env := clockEnvelope (b.pulse p).env (b.pulseCtrl p) }

/-- Step Q (R234). -/
def stepQuarter (b : Block) : Block :=
  { b with
    pulse1 := clockPulseEnvelope b .p1
    pulse2 := clockPulseEnvelope b .p2
    noise := { b.noise with env := clockEnvelope b.noise.env b.noiseCtrl } }

/-- The length counter and then the sweep unit of a pulse channel clocked (R235). -/
def clockPulseHalf (b : Block) (p : PulseIx) : Pulse :=
  clockSweep p (b.pulseSweep p)
    { b.pulse p with length := clockLength (b.pulse p).length (loopHalt (b.pulseCtrl p)) }

/-- Step H (R235). -/
def stepHalf (b : Block) : Block :=
  { b with
    pulse1 := clockPulseHalf b .p1
    pulse2 := clockPulseHalf b .p2
    tri := { b.tri with length := clockLength b.tri.length (triHalt b.triCtrl) }
    noise := { b.noise with length := clockLength b.noise.length (loopHalt b.noiseCtrl) } }

/-- Perform one step of the sequence (R234, R235, R236). -/
def performStep (a : FrameStep) (b : Block) : Block :=
  match a with
  | .quarter => stepQuarter b
  | .half => stepHalf b
  | .null => b

/-- The step table the mode bit selects (R231). -/
def stepTable (c : Config) (b : Block) : List FrameStep :=
  if fiveStep b.frameMode then c.stepTable5 else c.stepTable4

/-- `table[step]`. Beyond the table, which R231 rules out, a free value (log entry 9). -/
def stepAction (table : List FrameStep) (step : Nat) : FrameStep :=
  match table[step]? with
  | some a => a
  | none => Config.stepBeyondTable step

/-- `fs_tick()` (R231). -/
def fsTick (c : Config) (b : Block) : Block :=
  performStep (stepAction (stepTable c b) b.fs.step)
    { b with fs := { b.fs with step := (b.fs.step + 1) % (stepTable c b).length } }

/-- The countdown and possible tick at the start of an output sample (R230). -/
def frameCountdown (c : Config) (b : Block) : Block :=
  if b.fs.countdown - 1 = 0 then
    fsTick c { b with fs := { b.fs with countdown := c.fsPeriod } }
  else { b with fs := { b.fs with countdown := b.fs.countdown - 1 } }

end Sys2Proof.Machine
end

