-- ==== Sys2Proof/Machine/Oscillators.lean ====
section
/-! DEFINITION. The band-limited pulse, the triangle accumulator and the LFSR noise, one internal
sample each (spec/42_oscillators.md R290 to R323). -/

namespace Sys2Proof.Machine

/-! Band-limited pulse -/

/-- `L(x, d)`: +1 for phases below the duty, then -1 (R290, R294). -/
def level (x d : ℚ) : ℚ := if x < d then 1 else -1

/-- An edge: its time within the sample and its height (R290). -/
structure Edge where
  time : ℚ
  height : ℚ
deriving DecidableEq, Repr

/-- The edge at the sample boundary when the duty changed (R290, R291). -/
def dutyEdge (o : PulseOsc) (d : ℚ) : List Edge :=
  if d = o.dutyPrev then []
  else
    let j := level o.phase d - level o.phase o.dutyPrev
    if j = 0 then [] else [⟨0, j⟩]

/-- In rising order, the numbers of the periods floor(φ) to floor(φ + Δ) that are integers or have
fractional part d: every such number of (φ, φ + Δ] is among them (R295; log entry 12). -/
def edgeCandidates (φ Δ d : ℚ) : List ℚ :=
  (List.range (⌊φ + Δ⌋ - ⌊φ⌋ + 1).toNat).flatMap fun k =>
    let n : ℚ := ⌊φ⌋ + k
    if 0 < d ∧ d < 1 then [n, n + d] else [n]

/-- The edge at phase value `x` (R290): rising at an integer, else falling. -/
def edgeAt (φ Δ x : ℚ) : Edge := ⟨(x - φ) / Δ, if frac x = 0 then 2 else -2⟩

/-- The edges of the half-open interval (φ, φ + Δ], in increasing order (R290, R295). -/
def phaseEdges (φ Δ d : ℚ) : List Edge :=
  ((edgeCandidates φ Δ d).filter fun x => decide (φ < x) && decide (x ≤ φ + Δ)).map (edgeAt φ Δ)

/-- Add the band-limited residual of one edge to every ring entry (R290). -/
def addResidual (c : Config) (ring : List ℚ) (e : Edge) : List ℚ :=
  ring.zipIdx.map fun r => r.1 + e.height * (c.stepResponse (r.2 + 1 - e.time) - 1)

/-- The ring after the edges of one internal sample (R290). -/
def ringAfterEdges (c : Config) (o : PulseOsc) (d Δ : ℚ) : List ℚ :=
  (dutyEdge o d ++ phaseEdges o.phase Δ d).foldl (addResidual c) o.ring

/-- The unit value `u` that `pulse_step(o, d, Δ)` returns (R290). -/
def pulseValue (c : Config) (o : PulseOsc) (d Δ : ℚ) : ℚ :=
  level (frac (o.phase + Δ)) d + (ringAfterEdges c o d Δ).headD 0

/-- The oscillator after `pulse_step(o, d, Δ)` (R290). -/
def pulseAdvance (c : Config) (o : PulseOsc) (d Δ : ℚ) : PulseOsc where
  phase := frac (o.phase + Δ)
  dutyPrev := d
  ring := (ringAfterEdges c o d Δ).tail ++ [0]

/-- The pulse frequency f in Hz (R293). -/
def pulseFreq (c : Config) (t : Timer) : ℚ := c.apuClock / (16 * (t.toNat + 1))

/-- The phase increment Δ in periods per internal sample (R293). -/
def pulseDelta (c : Config) (t : Timer) : ℚ := pulseFreq c t / c.fInt

/-! Triangle accumulator -/

/-- The triangle frequency f_t in Hz, for a timer other than 0 (R310). -/
def triFreq (c : Config) (t : Timer) : ℚ := c.apuClock / (32 * t.toNat)

/-- The triangle increment Δ_t, which is 0 for timer 0 (R310, R311). -/
def triDelta (c : Config) (t : Timer) : ℚ := if t = 0 then 0 else triFreq c t / c.fInt

/-- The unit triangle value at phase ψ (R312). -/
def triValue (ψ : ℚ) : ℚ := if ψ < 1 / 2 then 4 * ψ - 1 else 3 - 4 * ψ

/-- The triangle after `tri_step` (R312). -/
def triAdvance (c : Config) (t : Triangle) : Triangle :=
  { t with phase := frac (t.phase + triDelta c t.timer) }

/-! LFSR noise -/

/-- `lfsr_step(n, mode)` (R320). -/
def lfsrStep (c : Config) (mode : Bool) (lfsr : BitVec 15) :
    BitVec 15 :=
  let tap := if mode then c.noiseTap1 else c.noiseTap0
  let fb := lfsr.getLsbD 0 ^^ lfsr.getLsbD tap
  (lfsr >>> 1) ||| ((BitVec.ofBool fb).setWidth 15 <<< 14)

/-- The loop of R321 with its number of passes bounded by `fuel`. -/
def noiseReload (c : Config) (mode : Bool) (period : ℚ) : Nat → Noise → Noise
  | 0, n => n
  | fuel + 1, n =>
    if n.count ≤ 0 then
      noiseReload c mode period fuel
        { n with lfsr := lfsrStep c mode n.lfsr, count := n.count + period }
    else n

/-- How many passes bring a count above 0 when the period is positive (log entry 11). -/
def reloadPasses (period count : ℚ) : Nat := (⌊-count / period⌋ + 1).toNat

/-- The noise clock of one internal sample, with `r2` the mode and period register (R321). -/
def noiseClock (c : Config) (r2 : Byte) (n : Noise) : Noise :=
  noiseReload c (noiseMode r2) (noisePeriod c r2) (reloadPasses (noisePeriod c r2) (n.count - 1))
    { n with count := n.count - 1 }

/-- The unit noise value `w_n`, taken before the clock (R322). -/
def noiseValue (n : Noise) : ℚ := if n.lfsr.getLsbD 0 then -1 else 1

end Sys2Proof.Machine
end

