-- ==== Sys2Proof/Machine/Mixer.lean ====
section
/-! DEFINITION. The mixer, the half-band decimator, the DC tracker, the dither, the quantiser and one
output sample (spec/43_mixer.md R350 to R368). -/

namespace Sys2Proof.Machine

/-! Mixer -/

/-- `pulse_step` of channel p: the oscillator advanced with the parameters read now (R293, R351). -/
def advancePulse (c : Config) (b : Block) (p : PulseIx) : Pulse :=
  { b.pulse p with
    osc := pulseAdvance c (b.pulse p).osc (dutyOf c (b.pulseCtrl p)) (pulseDelta c (b.pulse p).timer) }

/-- The unit value of pulse channel p for this internal sample (R293, R297). -/
def unitPulse (c : Config) (b : Block) (p : PulseIx) : ℚ :=
  pulseValue c (b.pulse p).osc (dutyOf c (b.pulseCtrl p)) (pulseDelta c (b.pulse p).timer)

/-- The mixer sum x (R351, R352). -/
def mixSum (c : Config) (a : Amplitudes) (b : Block) : ℚ :=
  c.gain[0] * (a.p1 * unitPulse c b .p1) + c.gain[1] * (a.p2 * unitPulse c b .p2) +
    c.gain[2] * (a.tri * triValue b.tri.phase) + c.gain[3] * (a.noise * noiseValue b.noise)

/-- Push x into the delay line, newest first (R353). -/
def pushSample (hb : Vector ℚ 9) (x : ℚ) : Vector ℚ 9 :=
  #v[x, hb[0], hb[1], hb[2], hb[3], hb[4], hb[5], hb[6], hb[7]]

/-- `internal_sample()` with the amplitudes of its output sample (R351, R272). -/
def internalSample (c : Config) (a : Amplitudes) (b : Block) : Block :=
  { b with
    pulse1 := advancePulse c b .p1
    pulse2 := advancePulse c b .p2
    tri := triAdvance c b.tri
    noise := noiseClock c b.noiseModePeriod b.noise
    hb := pushSample b.hb (mixSum c a b) }

/-- The internal samples of one output sample, OVERSAMPLE of them (R350 steps 3 and 4,
spec/00_scope.md R12). -/
def internalSamples (c : Config) (a : Amplitudes) : Nat → Block → Block
  | 0, b => b
  | n + 1, b => internalSamples c a n (internalSample c a b)

/-! Half-band decimation -/

/-- `decimate()` (R355). -/
def decimate (c : Config) (hb : Vector ℚ 9) : ℚ :=
  (List.zipWith (fun h x => h * x) c.hbCoeffs.toList hb.toList).sum

/-! DC removal, dither and quantisation -/

/-- `xorshift64()` as a function of the state word (R361). -/
def xorshift64 (c : Config) (x : BitVec 64) : BitVec 64 :=
  let x1 := x ^^^ (x <<< c.xorshiftA)
  let x2 := x1 ^^^ (x1 >>> c.xorshiftB)
  x2 ^^^ (x2 <<< c.xorshiftC)

/-- The tracker after one output sample with filter output y (R362). -/
def dcTrack (c : Config) (y dc : ℚ) : ℚ := dc + c.dcAlpha * (y - dc)

/-- A generator word as a number of [0, 1) with 53-bit resolution (R363). -/
def uniformDraw (x : BitVec 64) : ℚ := (x >>> 11).toNat / 2 ^ 53

/-- The dither of an output sample that starts with generator state `rng` (R363). -/
def tpdf (c : Config) (rng : BitVec 64) : ℚ :=
  c.ditherAmp *
    (uniformDraw (xorshift64 c rng) + uniformDraw (xorshift64 c (xorshift64 c rng)) - 1)

/-- Clip, then truncate (R365, R366). -/
def clipTrunc (v : ℚ) : ℤ := trunc (clamp v (-32768) 32767)

/-- The value `quantise(y)` returns (R360, R362 to R367). -/
def quantiseValue (c : Config) (y : ℚ) (b : Block) : ℤ :=
  clipTrunc (y - dcTrack c y b.dc + tpdf c b.rng)

/-- The block after `quantise(y)`: the tracker updated and two draws taken (R362, R363, R367). -/
def quantiseState (c : Config) (y : ℚ) (b : Block) : Block :=
  { b with dc := dcTrack c y b.dc, rng := xorshift64 c (xorshift64 c b.rng) }

/-! One output sample -/

/-- The block after steps 1 to 4 of an output sample (R350): frame tick, gates, internal samples. -/
def synthesise (c : Config) (b : Block) : Block :=
  let b1 := frameCountdown c b
  internalSamples c (amplitudes c b1) c.oversample b1

/-- The quantised sample q of the block's next output sample (R350 steps 1 to 6). -/
def sampleValue (c : Config) (b : Block) : ℤ :=
  let b2 := synthesise c b
  quantiseValue c (decimate c b2.hb) b2

/-- The block after its next output sample (R350). -/
def sampleState (c : Config) (b : Block) : Block :=
  let b2 := synthesise c b
  quantiseState c (decimate c b2.hb) b2

/-- The block after `n` output samples. -/
def afterSamples (c : Config) : Nat → Block → Block
  | 0, b => b
  | n + 1, b => afterSamples c n (sampleState c b)

/-- A block and the buffer it renders into. -/
structure Rendering where
  blk : Block
  out : Memory
deriving DecidableEq, Repr

/-- `output_sample(i)` (R350). -/
def outputSample (c : Config) (i : Nat) (r : Rendering) : Rendering where
  blk := sampleState c r.blk
  out := r.out.accumulate i (sampleValue c r.blk)

/-- The output samples `i, i+1, ..., i+n-1` (spec/44_control.md R401). -/
def renderFrom (c : Config) (i : Nat) : Nat → Rendering → Rendering
  | 0, r => r
  | n + 1, r => renderFrom c (i + 1) n (outputSample c i r)

end Sys2Proof.Machine
end

