-- ==== Sys2Proof/Machine/Control.lean ====
section
/-! DEFINITION. RENDER and SILENCE (spec/44_control.md R401 to R403). -/

namespace Sys2Proof.Machine

/-- The state after `count` output samples rendered into the lent buffer (R401). -/
def renderInto (c : Config) (count : Nat) (s : State) : State :=
  let r := renderFrom c 0 count ⟨s.blk, s.out⟩
  { s with blk := r.blk, out := r.out }

/-- `RENDER count` (R401, R402). A buffer shorter than `count` is refused before any element is
touched (spec/20_memory.md R107, spec/93_implementation_defined.md I6; log entry 6). -/
def execRender (count : Nat) (s : State) : Host.Outcome State Fault Refusal :=
  if count ≤ s.out.size then .next (renderInto Config.defaults count s)
  else .refused (.shortBuffer count s.out.size)

/-- `SILENCE` (R403). -/
def execSilence (s : State) : Host.Outcome State Fault Refusal :=
  .next (s.mapBlock (·.store 0x15 0x00))

end Sys2Proof.Machine
end

