-- ==== Sys2Proof/Machine/Writes.lean ====
section
/-! DEFINITION. What a WRITE does to the block (spec/40_apu_writes.md R170 to R192): the shared
effects behind the meanings of the WRITE rows. -/

namespace Sys2Proof.Machine

/-- `length_load(ch, LI)`: the new length counter (spec/41_apu_sequencer.md R250). -/
def lengthLoad (c : Config) (data : Byte) : Byte := lengthOf c (lengthIndex data)

/-- The first register number of a pulse channel's group (spec/20_memory.md R101). -/
def pulseBase : PulseIx → Byte
  | .p1 => 0x00
  | .p2 => 0x04

/-- The sweep register of pulse channel p (R172, R176). -/
def writePulseSweep (p : PulseIx) (data : Byte) (b : Block) : Block :=
  (b.store (pulseBase p + 1) data).setPulse p (sweepReloadSet (b.pulse p))

/-- The timer-low register of pulse channel p (R173, R177). -/
def writePulseTlo (p : PulseIx) (data : Byte) (b : Block) : Block :=
  (b.store (pulseBase p + 2) data).setPulse p
    { b.pulse p with timer := withTimerLow (b.pulse p).timer data }

/-- The 4th register of pulse channel p (R174, R178). -/
def writePulseLen (c : Config) (p : PulseIx) (data : Byte) (b : Block) : Block :=
  (b.store (pulseBase p + 3) data).setPulse p
    { b.pulse p with
      timer := withTimerHigh (b.pulse p).timer data
      length := lengthLoad c data
      env := envStart (b.pulse p).env }

/-- The triangle's timer-low register (R181). -/
def writeTriTlo (data : Byte) (b : Block) : Block :=
  { b.store 0x0A data with tri := { b.tri with timer := withTimerLow b.tri.timer data } }

/-- The triangle's 4th register (R182). -/
def writeTriLen (c : Config) (data : Byte) (b : Block) : Block :=
  { b.store 0x0B data with
    tri := { b.tri with timer := withTimerHigh b.tri.timer data, length := lengthLoad c data } }

/-- The noise channel's 4th register (R186). -/
def writeNoiseLen (c : Config) (data : Byte) (b : Block) : Block :=
  { b.store 0x0F data with
    noise := { b.noise with length := lengthLoad c data, env := envStart b.noise.env } }

/-- The frame-sequencer register (R191). -/
def writeFrame (data : Byte) (b : Block) : Block :=
  { b.store 0x17 data with fs := { b.fs with step := 0 } }

end Sys2Proof.Machine
end

