-- ==== Sys2Proof/Machine/NoiseWrites.lean ====
section
/-! DEFINITION. The WRITE rows of the noise channel, registers 0x0C to 0x0F (spec/40_apu_writes.md
R183 to R186). -/

namespace Sys2Proof.Machine

/-- `WRITE_NOISE_CTRL` (R183). -/
def execWriteNoiseCtrl (data : Byte) (s : State) : Host.Outcome State Fault Refusal :=
  .next (s.mapBlock (·.store 0x0C data))

/-- `WRITE_NOISE_UNUSED` (R184). -/
def execWriteNoiseUnused (data : Byte) (s : State) : Host.Outcome State Fault Refusal :=
  .next (s.mapBlock (·.store 0x0D data))

/-- `WRITE_NOISE_PERIOD` (R185). -/
def execWriteNoisePeriod (data : Byte) (s : State) : Host.Outcome State Fault Refusal :=
  .next (s.mapBlock (·.store 0x0E data))

/-- `WRITE_NOISE_LEN` (R186). -/
def execWriteNoiseLen (data : Byte) (s : State) : Host.Outcome State Fault Refusal :=
  .next (s.mapBlock (writeNoiseLen Config.defaults data))

end Sys2Proof.Machine
end

