-- ==== Sys2Proof/Machine/PulseWrites.lean ====
section
/-! DEFINITION. The WRITE rows of the pulse channels, registers 0x00 to 0x07 (spec/40_apu_writes.md
R171 to R178). -/

namespace Sys2Proof.Machine

/-- `WRITE_P1_CTRL` (R171). -/
def execWriteP1Ctrl (data : Byte) (s : State) : Host.Outcome State Fault Refusal :=
  .next (s.mapBlock (·.store 0x00 data))

/-- `WRITE_P1_SWEEP` (R172). -/
def execWriteP1Sweep (data : Byte) (s : State) : Host.Outcome State Fault Refusal :=
  .next (s.mapBlock (writePulseSweep .p1 data))

/-- `WRITE_P1_TLO` (R173). -/
def execWriteP1Tlo (data : Byte) (s : State) : Host.Outcome State Fault Refusal :=
  .next (s.mapBlock (writePulseTlo .p1 data))

/-- `WRITE_P1_LEN` (R174). -/
def execWriteP1Len (data : Byte) (s : State) : Host.Outcome State Fault Refusal :=
  .next (s.mapBlock (writePulseLen Config.defaults .p1 data))

/-- `WRITE_P2_CTRL` (R175). -/
def execWriteP2Ctrl (data : Byte) (s : State) : Host.Outcome State Fault Refusal :=
  .next (s.mapBlock (·.store 0x04 data))

/-- `WRITE_P2_SWEEP` (R176). -/
def execWriteP2Sweep (data : Byte) (s : State) : Host.Outcome State Fault Refusal :=
  .next (s.mapBlock (writePulseSweep .p2 data))

/-- `WRITE_P2_TLO` (R177). -/
def execWriteP2Tlo (data : Byte) (s : State) : Host.Outcome State Fault Refusal :=
  .next (s.mapBlock (writePulseTlo .p2 data))

/-- `WRITE_P2_LEN` (R178). -/
def execWriteP2Len (data : Byte) (s : State) : Host.Outcome State Fault Refusal :=
  .next (s.mapBlock (writePulseLen Config.defaults .p2 data))

end Sys2Proof.Machine
end

