-- ==== Sys2Proof/Machine/SystemWrites.lean ====
section
/-! DEFINITION. The WRITE rows from register 0x10 up: stored-only registers, status, frame sequencer
and the ignored numbers (spec/40_apu_writes.md R187 to R192). -/

namespace Sys2Proof.Machine

/-- `WRITE_DMC_UNUSED`, registers 0x10 to 0x13 (R187). -/
def execWriteDmcUnused (reg data : Byte) (s : State) : Host.Outcome State Fault Refusal :=
  .next (s.mapBlock (·.store reg data))

/-- `WRITE_0x14` (R188). -/
def execWrite0x14 (data : Byte) (s : State) : Host.Outcome State Fault Refusal :=
  .next (s.mapBlock (·.store 0x14 data))

/-- `WRITE_STATUS` (R189). -/
def execWriteStatus (data : Byte) (s : State) : Host.Outcome State Fault Refusal :=
  .next (s.mapBlock (·.store 0x15 data))

/-- `WRITE_0x16` (R190). -/
def execWrite0x16 (data : Byte) (s : State) : Host.Outcome State Fault Refusal :=
  .next (s.mapBlock (·.store 0x16 data))

/-- `WRITE_FRAME` (R191). -/
def execWriteFrame (data : Byte) (s : State) : Host.Outcome State Fault Refusal :=
  .next (s.mapBlock (writeFrame data))

/-- `WRITE_IGN`, registers 0x18 to 0x1F: no state changes (R192). -/
def execWriteIgn18 (_reg _data : Byte) (s : State) : Host.Outcome State Fault Refusal := .next s

/-- `WRITE_IGN`, registers 0x20 to 0x3F: no state changes (R192). -/
def execWriteIgn20 (_reg _data : Byte) (s : State) : Host.Outcome State Fault Refusal := .next s

/-- `WRITE_IGN`, registers 0x40 to 0x7F: no state changes (R192). -/
def execWriteIgn40 (_reg _data : Byte) (s : State) : Host.Outcome State Fault Refusal := .next s

/-- `WRITE_IGN`, registers 0x80 to 0xFF: no state changes (R192). -/
def execWriteIgn80 (_reg _data : Byte) (s : State) : Host.Outcome State Fault Refusal := .next s

end Sys2Proof.Machine
end

