-- ==== Sys2Proof/Machine/TriangleWrites.lean ====
section
/-! DEFINITION. The WRITE rows of the triangle, registers 0x08 to 0x0B (spec/40_apu_writes.md R179 to
R182). -/

namespace Sys2Proof.Machine

/-- `WRITE_TRI_CTRL` (R179). -/
def execWriteTriCtrl (data : Byte) (s : State) : Host.Outcome State Fault Refusal :=
  .next (s.mapBlock (·.store 0x08 data))

/-- `WRITE_TRI_UNUSED` (R180). -/
def execWriteTriUnused (data : Byte) (s : State) : Host.Outcome State Fault Refusal :=
  .next (s.mapBlock (·.store 0x09 data))

/-- `WRITE_TRI_TLO` (R181). -/
def execWriteTriTlo (data : Byte) (s : State) : Host.Outcome State Fault Refusal :=
  .next (s.mapBlock (writeTriTlo data))

/-- `WRITE_TRI_LEN` (R182). -/
def execWriteTriLen (data : Byte) (s : State) : Host.Outcome State Fault Refusal :=
  .next (s.mapBlock (writeTriLen Config.defaults data))

end Sys2Proof.Machine
end

