-- ==== Sys2Proof/Machine/Dispatch.lean ====
section
/-! DEFINITION. One arm for each command: the meaning it calls. -/

namespace Sys2Proof.Machine

def exec (i : Instr) (s : State) : Host.Outcome State Fault Refusal :=
  match i with
  | .writeP1Ctrl data => Sys2Proof.Machine.execWriteP1Ctrl data s
  | .writeP1Sweep data => Sys2Proof.Machine.execWriteP1Sweep data s
  | .writeP1Tlo data => Sys2Proof.Machine.execWriteP1Tlo data s
  | .writeP1Len data => Sys2Proof.Machine.execWriteP1Len data s
  | .writeP2Ctrl data => Sys2Proof.Machine.execWriteP2Ctrl data s
  | .writeP2Sweep data => Sys2Proof.Machine.execWriteP2Sweep data s
  | .writeP2Tlo data => Sys2Proof.Machine.execWriteP2Tlo data s
  | .writeP2Len data => Sys2Proof.Machine.execWriteP2Len data s
  | .writeTriCtrl data => Sys2Proof.Machine.execWriteTriCtrl data s
  | .writeTriUnused data => Sys2Proof.Machine.execWriteTriUnused data s
  | .writeTriTlo data => Sys2Proof.Machine.execWriteTriTlo data s
  | .writeTriLen data => Sys2Proof.Machine.execWriteTriLen data s
  | .writeNoiseCtrl data => Sys2Proof.Machine.execWriteNoiseCtrl data s
  | .writeNoiseUnused data => Sys2Proof.Machine.execWriteNoiseUnused data s
  | .writeNoisePeriod data => Sys2Proof.Machine.execWriteNoisePeriod data s
  | .writeNoiseLen data => Sys2Proof.Machine.execWriteNoiseLen data s
  | .writeDmcUnused reg data => Sys2Proof.Machine.execWriteDmcUnused reg data s
  | .write0x14 data => Sys2Proof.Machine.execWrite0x14 data s
  | .writeStatus data => Sys2Proof.Machine.execWriteStatus data s
  | .write0x16 data => Sys2Proof.Machine.execWrite0x16 data s
  | .writeFrame data => Sys2Proof.Machine.execWriteFrame data s
  | .writeIgn18 reg data => Sys2Proof.Machine.execWriteIgn18 reg data s
  | .writeIgn20 reg data => Sys2Proof.Machine.execWriteIgn20 reg data s
  | .writeIgn40 reg data => Sys2Proof.Machine.execWriteIgn40 reg data s
  | .writeIgn80 reg data => Sys2Proof.Machine.execWriteIgn80 reg data s
  | .render count => Sys2Proof.Machine.execRender count s
  | .silence => Sys2Proof.Machine.execSilence s

end Sys2Proof.Machine
end

