-- ==== Sys2Proof/Machine/HostPort.lean ====
section
/-! DEFINITION. The host's side of a step (spec/44_control.md R400, R404, R405, R406): taking the
oldest pending command, lending its buffer, handing the buffer back, recording a refusal. -/

namespace Sys2Proof.Machine

/-- The state in which the oldest pending command runs: it is taken from the queue and its buffer is
lent to the block (R400, spec/20_memory.md R107). -/
def State.accept (s : State) (call : Call) (rest : List Call) : State :=
  { s with pending := rest, out := call.out }

/-- Whether a command hands its buffer back to the host (R406). -/
def lendsBuffer : Instr → Bool
  | .render _ => true
  | .writeP1Ctrl _ => false
  | .writeP1Sweep _ => false
  | .writeP1Tlo _ => false
  | .writeP1Len _ => false
  | .writeP2Ctrl _ => false
  | .writeP2Sweep _ => false
  | .writeP2Tlo _ => false
  | .writeP2Len _ => false
  | .writeTriCtrl _ => false
  | .writeTriUnused _ => false
  | .writeTriTlo _ => false
  | .writeTriLen _ => false
  | .writeNoiseCtrl _ => false
  | .writeNoiseUnused _ => false
  | .writeNoisePeriod _ => false
  | .writeNoiseLen _ => false
  | .writeDmcUnused _ _ => false
  | .write0x14 _ => false
  | .writeStatus _ => false
  | .write0x16 _ => false
  | .writeFrame _ => false
  | .writeIgn18 _ _ => false
  | .writeIgn20 _ _ => false
  | .writeIgn40 _ _ => false
  | .writeIgn80 _ _ => false
  | .silence => false

/-- After a RENDER its buffer joins the buffers the host has back (R406; log entry 19). -/
def State.handBack (i : Instr) (s : State) : State :=
  if lendsBuffer i then { s with returned := s.returned ++ [s.out] } else s

/-- `handBack` on the outcome of a command. -/
def handBackOutcome (i : Instr) (o : Host.Outcome State Fault Refusal) :
    Host.Outcome State Fault Refusal :=
  match o with
  | .next s => .next (s.handBack i)
  | .fault f => .fault f
  | .refused r => .refused r

/-- The refusal mark set, and nothing else (R404). -/
def State.markRefused (s : State) : State := { s with refusalMark := true }

/-- How many elements a command word needs lent: its count for a RENDER, else none (R107). -/
def lentSize (w : Word) : Nat :=
  match decode w with
  | .ok (.render n) => n
  | _ => 0

/-- The host issues a word next, with a zero-filled buffer of the length the word needs (log entry
5). -/
def State.issue (s : State) (w : Word) : State :=
  { s with pending := ⟨w, Memory.zeros (lentSize w)⟩ :: s.pending }

end Sys2Proof.Machine
end

