-- ==== Sys2Proof/Machine/Step.lean ====
section
/-! DEFINITION. One step of the machine: the oldest pending command (spec/44_control.md R400). -/

namespace Sys2Proof.Machine

/-- One step. A marked state has no meaning (R404). With no command pending the block does not
advance (spec/60_exceptions.md R442; log entry 2). Otherwise the oldest command's word is decoded
and the command runs to completion (R400), or the word is refused (R404). -/
def step (s : State) : Host.Outcome State Fault Refusal :=
  if s.refusalMark then .refused .refusedRun
  else
    match s.pending with
    | [] => .next s
    | call :: rest =>
      match decode call.word with
      | .error why => .refused (.illegalCommand why call.word)
      | .ok i => handBackOutcome i (exec i (s.accept call rest))

/-- One step with the refusal recorded: a refused step changes nothing but the mark, which is never
cleared (R404; log entry 3). -/
def advance (s : State) : State :=
  match step s with
  | .next s' => s'
  | .fault _ => s
  | .refused _ => s.markRefused

/-- The host issues the word `w` before every pending command, so that the next step runs it. -/
def State.withFetchWord (s : State) (nbits w : Nat) : State :=
  s.issue (BitVec.ofNat 32 (w % 2 ^ nbits))

end Sys2Proof.Machine
end

