-- ==== Sys2Proof/Machine/Assembler.lean ====
section
/-! DEFINITION. Assembler lines and pseudo-commands (spec/30_encoding.md R136, R137; log entry 15).
The block itself runs words: this file says which words a line stands for. -/

namespace Sys2Proof.Machine

/-- Why the assembler refuses a line (R136, R137). -/
inductive AsmError where
  | unknownMnemonic
  | wrongOperandCount
  | badNumber
  | operandOutOfRange
deriving DecidableEq, Repr

/-- A line's command before its operands are checked: a real command (R136) or a pseudo-command
(R137). -/
inductive AsmLine where
  | write (reg data : Nat)
  | render (count : Nat)
  | silence
  | nop
  | pulse (p duty halt const vol : Nat)
  | sweep (p en period neg shift : Nat)
  | ptimer (p t len : Nat)
  | ttimer (t len : Nat)
  | noise (halt const vol mode idx len : Nat)
  | enable (mask : Nat)
  | fsmode (m : Nat)
deriving DecidableEq, Repr

/-- Every operand fits its field (R136, R137). -/
def AsmLine.fits : AsmLine → Bool
  | .write reg data => decide (reg < 256) && decide (data < 256)
  | .render count => decide (count < 2 ^ 30)
  | .silence => true
  | .nop => true
  | .pulse p duty halt const vol =>
    (p == 1 || p == 2) && decide (duty < 4) && decide (halt < 2) && decide (const < 2) &&
      decide (vol < 16)
  | .sweep p en period neg shift =>
    (p == 1 || p == 2) && decide (en < 2) && decide (period < 8) && decide (neg < 2) &&
      decide (shift < 8)
  | .ptimer p t len => (p == 1 || p == 2) && decide (t < 2048) && decide (len < 32)
  | .ttimer t len => decide (t < 2048) && decide (len < 32)
  | .noise halt const vol mode idx len =>
    decide (halt < 2) && decide (const < 2) && decide (vol < 16) && decide (mode < 2) &&
      decide (idx < 16) && decide (len < 32)
  | .enable mask => decide (mask < 256)
  | .fsmode m => decide (m < 2)

/-- The WRITE command of a register number and a data value (R131). -/
def asmWrite (reg data : Nat) : Instr := decodeWrite (BitVec.ofNat 8 reg) (BitVec.ofNat 8 data)

/-- The group base `b` of pulse channel p in {1, 2} (R137). -/
def asmPulseBase (p : Nat) : Nat := if p = 1 then 0x00 else 0x04

/-- The real commands a line stands for, in order (R137). -/
def AsmLine.expand : AsmLine → List Instr
  | .write reg data => [asmWrite reg data]
  | .render count => [.render count]
  | .silence => [.silence]
  | .nop => [.render 0]
  | .pulse p duty halt const vol =>
    [asmWrite (asmPulseBase p) (duty <<< 6 ||| halt <<< 5 ||| const <<< 4 ||| vol)]
  | .sweep p en period neg shift =>
    [asmWrite (asmPulseBase p + 1) (en <<< 7 ||| period <<< 4 ||| neg <<< 3 ||| shift)]
  | .ptimer p t len =>
    [asmWrite (asmPulseBase p + 2) (t &&& 0xFF), asmWrite (asmPulseBase p + 3) (len <<< 3 ||| t >>> 8)]
  | .ttimer t len => [asmWrite 0x0A (t &&& 0xFF), asmWrite 0x0B (len <<< 3 ||| t >>> 8)]
  | .noise halt const vol mode idx len =>
    [asmWrite 0x0C (halt <<< 5 ||| const <<< 4 ||| vol), asmWrite 0x0E (mode <<< 7 ||| idx),
      asmWrite 0x0F (len <<< 3)]
  | .enable mask => [asmWrite 0x15 mask]
  | .fsmode m => [asmWrite 0x17 (m <<< 7)]

/-! The text of a line (R136) -/

/-- Blanks between the parts of a line. -/
def isBlank (ch : Char) : Bool := ch == ' ' || ch == '\t'

/-- A text without the blanks at its ends. -/
def trimBlanks (l : List Char) : List Char :=
  ((l.dropWhile isBlank).reverse.dropWhile isBlank).reverse

/-- The parts of a text between commas. -/
def splitCommas : List Char → List (List Char)
  | [] => [[]]
  | ch :: rest =>
    match splitCommas rest with
    | [] => [[ch]]
    | part :: parts => if ch == ',' then [] :: part :: parts else (ch :: part) :: parts

/-- The value of a digit in a base up to 16. -/
def digitValue (base : Nat) (ch : Char) : Option Nat :=
  let n := ch.toNat
  let v :=
    if 48 ≤ n ∧ n ≤ 57 then n - 48
    else if 65 ≤ n ∧ n ≤ 70 then n - 55
    else if 97 ≤ n ∧ n ≤ 102 then n - 87
    else base
  if v < base then some v else none

/-- The digits of a number read left to right. -/
def digitsValue (base : Nat) : Nat → List Char → Option Nat
  | acc, [] => some acc
  | acc, ch :: rest =>
    match digitValue base ch with
    | some v => digitsValue base (acc * base + v) rest
    | none => none

/-- A decimal or `0x` hexadecimal number (R136). -/
def parseNumber (l : List Char) : Option Nat :=
  match l with
  | [] => none
  | '0' :: 'x' :: [] => none
  | '0' :: 'x' :: digits => digitsValue 16 0 digits
  | digits => digitsValue 10 0 digits

/-- The numbers of an operand list, or none where one is no number. -/
def parseNumbers : List (List Char) → Option (List Nat)
  | [] => some []
  | part :: parts =>
    match parseNumber (trimBlanks part), parseNumbers parts with
    | some n, some ns => some (n :: ns)
    | _, _ => none

/-- The command of an upper-case mnemonic and its operands. -/
def asmLineOf (mnemonic : List Char) (ops : List Nat) : Except AsmError AsmLine :=
  if mnemonic = ['W', 'R', 'I', 'T', 'E'] then
    match ops with
    | [reg, data] => .ok (.write reg data)
    | _ => .error .wrongOperandCount
  else if mnemonic = ['R', 'E', 'N', 'D', 'E', 'R'] then
    match ops with
    | [count] => .ok (.render count)
    | _ => .error .wrongOperandCount
  else if mnemonic = ['S', 'I', 'L', 'E', 'N', 'C', 'E'] then
    match ops with
    | [] => .ok .silence
    | _ => .error .wrongOperandCount
  else if mnemonic = ['N', 'O', 'P'] then
    match ops with
    | [] => .ok .nop
    | _ => .error .wrongOperandCount
  else if mnemonic = ['P', 'U', 'L', 'S', 'E'] then
    match ops with
    | [p, duty, halt, const, vol] => .ok (.pulse p duty halt const vol)
    | _ => .error .wrongOperandCount
  else if mnemonic = ['S', 'W', 'E', 'E', 'P'] then
    match ops with
    | [p, en, period, neg, shift] => .ok (.sweep p en period neg shift)
    | _ => .error .wrongOperandCount
  else if mnemonic = ['P', 'T', 'I', 'M', 'E', 'R'] then
    match ops with
    | [p, t, len] => .ok (.ptimer p t len)
    | _ => .error .wrongOperandCount
  else if mnemonic = ['T', 'T', 'I', 'M', 'E', 'R'] then
    match ops with
    | [t, len] => .ok (.ttimer t len)
    | _ => .error .wrongOperandCount
  else if mnemonic = ['N', 'O', 'I', 'S', 'E'] then
    match ops with
    | [halt, const, vol, mode, idx, len] => .ok (.noise halt const vol mode idx len)
    | _ => .error .wrongOperandCount
  else if mnemonic = ['E', 'N', 'A', 'B', 'L', 'E'] then
    match ops with
    | [mask] => .ok (.enable mask)
    | _ => .error .wrongOperandCount
  else if mnemonic = ['F', 'S', 'M', 'O', 'D', 'E'] then
    match ops with
    | [m] => .ok (.fsmode m)
    | _ => .error .wrongOperandCount
  else .error .unknownMnemonic

/-- The commands a line of text stands for. A comment starts at `;`, mnemonics are case-insensitive,
and an operand that does not fit is refused (R136, R137). A line with no command stands for none. -/
def assembleLine (line : List Char) : Except AsmError (List Instr) :=
  let text := trimBlanks (line.takeWhile (· != ';'))
  if text = [] then .ok []
  else
    let mnemonic := (text.takeWhile fun ch => !isBlank ch).map Char.toUpper
    let rest := trimBlanks (text.dropWhile fun ch => !isBlank ch)
    match parseNumbers (if rest = [] then [] else splitCommas rest) with
    | none => .error .badNumber
    | some ops =>
      match asmLineOf mnemonic ops with
      | .error e => .error e
      | .ok l => if l.fits then .ok l.expand else .error .operandOutOfRange

/-- The words of a line (R136). -/
def assembleWords (line : List Char) : Except AsmError (List Word) :=
  (assembleLine line).map (·.map encode)

end Sys2Proof.Machine
end

