-- ==== Sys2Proof/Safety.lean ====
section
/-! DEFINITION. What a good state is, and the observations that claims speak of: the invariant that
holds at reset and through every step, the bounds on signal values, the steps a run of frame ticks
performs, the samples a run of output samples gives, and what a register byte contributes. -/

namespace Sys2Proof.Machine

/-! Good states -/

/-- A pulse oscillator between internal samples: the phase in [0, 1) and the duty from the table
(spec/10_state.md R47), and with the box kernel a ring of zeros (spec/42_oscillators.md R292). -/
structure PulseOsc.Inv (o : PulseOsc) : Prop where
  phase_nonneg : 0 ≤ o.phase
  phase_lt : o.phase < 1
  duty_mem : o.dutyPrev ∈ Config.defaults.dutyTable.toList
  ring_zero : o.ring = [0, 0]

/-- The block's state within the ranges its rules state (spec/10_state.md R46 to R48,
spec/41_apu_sequencer.md R231, spec/42_oscillators.md R320, R321, spec/43_mixer.md R361). -/
structure Block.Inv (b : Block) : Prop where
  step_lt : b.fs.step < (stepTable Config.defaults b).length
  countdown_pos : 0 < b.fs.countdown
  countdown_le : b.fs.countdown ≤ Config.defaults.fsPeriod
  osc1 : b.pulse1.osc.Inv
  osc2 : b.pulse2.osc.Inv
  tri_nonneg : 0 ≤ b.tri.phase
  tri_lt : b.tri.phase < 1
  lfsr_ne : b.noise.lfsr ≠ 0
  count_nonneg : 0 ≤ b.noise.count
  rng_ne : b.rng ≠ 0

/-- A good block, and every buffer in canonical form. -/
structure State.Inv (s : State) : Prop where
  blk : s.blk.Inv
  out : s.out.wf = true
  pending : ∀ call ∈ s.pending, call.out.wf = true
  returned : ∀ m ∈ s.returned, m.wf = true

/-- Bounds on signal values: each mixer output within 4 · 15 · 512 (spec/43_mixer.md R352), and the DC
estimate within the largest filter output, 9/8 of that. -/
structure Block.SignalBound (b : Block) : Prop where
  hb_le : ∀ i : Fin 9, |b.hb[i]| ≤ 30720
  dc_le : |b.dc| ≤ 34560

/-! Observations -/

/-- The step the next frame tick performs. -/
def tickAction (c : Config) (b : Block) : FrameStep := stepAction (stepTable c b) b.fs.step

/-- The steps that `n` consecutive frame ticks perform, first tick first. -/
def tickActions (c : Config) : Nat → Block → List FrameStep
  | 0, _ => []
  | n + 1, b => tickAction c b :: tickActions c n (fsTick c b)

/-- The block after `n` consecutive frame ticks. -/
def afterTicks (c : Config) : Nat → Block → Block
  | 0, b => b
  | n + 1, b => afterTicks c n (fsTick c b)

/-- The quantised samples of the next `n` output samples. -/
def sampleValues (c : Config) : Nat → Block → List ℤ
  | 0, _ => []
  | n + 1, b => sampleValue c b :: sampleValues c n (sampleState c b)

/-- `Hd(x)`: the time a pulse of duty d spends high in the phases [0, x) (spec/42_oscillators.md
R292). -/
def highTime (d x : ℚ) : ℚ := ⌊x⌋ * d + min (frac x) d

/-- A length counter after `n` half-frame clocks with the same halt bit. -/
def lengthAfter (halt : Bool) : Nat → Byte → Byte
  | 0, l => l
  | n + 1, l => lengthAfter halt n (clockLength l halt)

/-- An envelope after `n` quarter-frame clocks. -/
def envelopeAfter (r0 : Byte) : Nat → Envelope → Envelope
  | 0, e => e
  | n + 1, e => envelopeAfter r0 n (clockEnvelope e r0)

/-- Run commands one after another from a state, as far as each answers a next state. -/
def execAll : List Instr → State → Host.Outcome State Fault Refusal
  | [], s => .next s
  | i :: is, s =>
    match exec i s with
    | .next s' => execAll is s'
    | .fault f => .fault f
    | .refused r => .refused r

/-! What rendering reads of the register file -/

/-- The bits of register `r` that a rule reads while samples are rendered (spec/30_encoding.md R140
to R152). The timer and length bits of registers 2 and 3 act at the write only (R153). -/
def readBits (r : Fin 24) : Byte :=
  match r.val with
  | 0x00 => 0xFF
  | 0x01 => 0xFF
  | 0x04 => 0xFF
  | 0x05 => 0xFF
  | 0x08 => 0x80
  | 0x0C => 0x3F
  | 0x0E => 0x8F
  | 0x15 => 0x0F
  | 0x17 => 0x80
  | _ => 0x00

/-- Two blocks equal in all but register bits that rendering does not read. -/
structure Block.SameReadBits (a b : Block) : Prop where
  regs : ∀ r : Fin 24, a.regs[r] &&& readBits r = b.regs[r] &&& readBits r
  rest : a = { b with regs := a.regs }

/-- The bits of register `r` that the free-running parts read: the duties, the sweep registers, the
noise mode and period, and the sequencer mode. -/
def runningBits (r : Fin 24) : Byte :=
  match r.val with
  | 0x00 => 0xC0
  | 0x01 => 0xFF
  | 0x04 => 0xC0
  | 0x05 => 0xFF
  | 0x0E => 0x8F
  | 0x17 => 0x80
  | _ => 0x00

/-- Two blocks equal in every free-running part. They may differ in all that opens or closes a gate
(enables, length counters, halts, volumes, envelopes), in the delay line and in the DC estimate. -/
structure Block.SameRunning (a b : Block) : Prop where
  regs : ∀ r : Fin 24, a.regs[r] &&& runningBits r = b.regs[r] &&& runningBits r
  timer1 : a.pulse1.timer = b.pulse1.timer
  timer2 : a.pulse2.timer = b.pulse2.timer
  sweep1 : a.pulse1.sweep = b.pulse1.sweep
  sweep2 : a.pulse2.sweep = b.pulse2.sweep
  osc1 : a.pulse1.osc = b.pulse1.osc
  osc2 : a.pulse2.osc = b.pulse2.osc
  triTimer : a.tri.timer = b.tri.timer
  triPhase : a.tri.phase = b.tri.phase
  lfsr : a.noise.lfsr = b.noise.lfsr
  count : a.noise.count = b.noise.count
  fs : a.fs = b.fs
  rng : a.rng = b.rng

end Sys2Proof.Machine
end

