-- ==== Sys2Proof/Certificates/Slice0/Obligations.lean ====
section
/-! DEFINITION. The statements for the provers. Every one about `exec` or `step` speaks of the default
parameters of spec/00_scope.md R7 (log entry 8). -/

open Sys2Proof Sys2Proof.Machine

/-! Encoding -/

/-- Decoding an encoded well-formed command gives it back, every operand at every value its encoding
admits (spec/30_encoding.md R131 to R133, R154). -/
def Obligations.DecodeOfEncodeIsTheCommand : Prop :=
  ∀ i : Instr, i.wf = true → decode (encode i) = .ok i

/-- A word that decodes is the encoding of the well-formed command it decodes to: one word for each
command (R130 to R133). -/
def Obligations.EncodeOfDecodeIsTheWord : Prop :=
  ∀ (w : Word) (i : Instr), decode w = .ok i → i.wf = true ∧ encode i = w

/-- R135: a word matches at most one row of the opcode table, and a legal word its own, so the order of
the rows does not matter; a WRITE to 0x18..0xFF decodes to a WRITE_IGN row, which changes no state. -/
def Obligations.LegalWordMatchesOnlyItsRow : Prop :=
  (∀ (w : Word) (k l : Nat) (r r' : Word × Word), opcodeRows[k]? = some r →
      opcodeRows[l]? = some r' → matchesRow w r = true → matchesRow w r' = true → k = l) ∧
    (∀ (w : Word) (i : Instr), decode w = .ok i →
      ∃ row, opcodeRows[i.rowIndex]? = some row ∧ matchesRow w row = true) ∧
    (∀ reg data : Byte, 0x18 ≤ reg.toNat →
      decode (writeWord reg data) = .ok (decodeIgnored reg data) ∧
        ∀ s : State, exec (decodeIgnored reg data) s = .next s)

/-- R134: the words that spell no command are those of kind 0b11, a WRITE with a nonzero bit in 29:16
and a SILENCE with a nonzero bit in 29:0; they are the words that match no row; and a step refuses
one, recording the refusal and changing nothing else. How a word reaches the block, that `advance`
records the refusal and that the refused word stays pending are the model's choices (log entries 1 and
3). -/
def Obligations.IllegalWordsAreRefused : Prop :=
  (∀ w : Word, (∃ why, decode w = .error why) ↔
      w.toNat / 2 ^ 30 = 3 ∨ (w.toNat / 2 ^ 30 = 0 ∧ w.toNat / 2 ^ 16 % 2 ^ 14 ≠ 0) ∨
        (w.toNat / 2 ^ 30 = 2 ∧ w.toNat % 2 ^ 30 ≠ 0)) ∧
    (∀ w : Word, (∃ why, decode w = .error why) ↔ ∀ row ∈ opcodeRows, matchesRow w row = false) ∧
    (∀ (s : State) (call : Call) (rest : List Call) (why : Illegal), s.refusalMark = false →
      s.pending = call :: rest → decode call.word = .error why →
      step s = .refused (.illegalCommand why call.word) ∧
        advance s = { s with refusalMark := true })

/-- A refused step, recorded, leaves all but the mark as it was and sets the mark; the mark is never
cleared, and a marked run has no further step. R404 says so of an illegal word. That the mark is set by
`advance`, that it is set for a short buffer too, and that a marked state has no step are the model's
choices (log entry 3). -/
def Obligations.RefusalMarkIsNeverCleared : Prop :=
  (∀ (s : State) (r : Refusal), step s = .refused r →
      advance s = { s with refusalMark := true }) ∧
    (∀ s : State, s.refusalMark = true → (advance s).refusalMark = true) ∧
    (∀ (s s' : State), s.refusalMark = true → step s ≠ .next s') ∧
    (∀ s : State, s.refusalMark = true → (advance s).blk = s.blk)

/-- Words written out from the encodings of R131 to R133 decode to the commands they stand for. -/
def Obligations.SpecWordsDecode : Prop :=
  decode 0x0000150F#32 = .ok (.writeStatus 0x0F) ∧
    decode 0x000003FF#32 = .ok (.writeP1Len 0xFF) ∧
    decode 0x00000581#32 = .ok (.writeP2Sweep 0x81) ∧
    decode 0x00000A40#32 = .ok (.writeTriTlo 0x40) ∧
    decode 0x00000E85#32 = .ok (.writeNoisePeriod 0x85) ∧
    decode 0x0000117F#32 = .ok (.writeDmcUnused 0x11 0x7F) ∧
    decode 0x000020FF#32 = .ok (.writeIgn20 0x20 0xFF) ∧
    decode 0x40000064#32 = .ok (.render 100) ∧
    decode 0x7FFFFFFF#32 = .ok (.render 1073741823) ∧
    decode 0x80000000#32 = .ok .silence ∧
    decode 0xC0000000#32 = .error .reservedKind ∧
    decode 0x00010000#32 = .error .writeNonzero ∧
    decode 0x80000001#32 = .error .silenceNonzero

/-! Steps -/

/-- A step runs the decoded oldest command in the state where that command is taken from the queue
and its buffer lent; around it the step only hands a RENDER's buffer back. With no command pending the
block does not advance (spec/44_control.md R400, spec/60_exceptions.md R442). The queue and the list
of buffers handed back are the model's own conventions (log entries 1, 2 and 19). -/
def Obligations.StepRunsTheDecodedCommand : Prop :=
  (∀ (s t : State) (call : Call) (rest : List Call) (i : Instr), s.refusalMark = false →
      s.pending = call :: rest → decode call.word = .ok i →
      exec i { s with pending := rest, out := call.out } = .next t →
      step s = .next
        (match i with
          | .render _ => { t with returned := t.returned ++ [t.out] }
          | _ => t)) ∧
    (∀ (s : State) (call : Call) (rest : List Call) (i : Instr) (r : Refusal),
      s.refusalMark = false → s.pending = call :: rest → decode call.word = .ok i →
      exec i { s with pending := rest, out := call.out } = .refused r → step s = .refused r) ∧
    (∀ s : State, s.refusalMark = false → s.pending = [] → step s = .next s)

/-! Reset and invariants -/

/-- R53: every part of the block's state at the value the reset table gives it. -/
def Obligations.ResetStateIsTheTable : Prop :=
  let b := State.reset.blk
  (∀ i : Fin 24, b.regs[i] = 0x00) ∧
    (∀ p ∈ [b.pulse1, b.pulse2], p.timer = 0 ∧ p.length = 0 ∧ p.env = ⟨false, 0, 0⟩ ∧
      p.sweep = ⟨0, false⟩ ∧ p.osc.phase = 0 ∧ p.osc.dutyPrev = 1 / 8 ∧
      p.osc.ring.length = Config.defaults.kBlep + 1 ∧ ∀ x ∈ p.osc.ring, x = 0) ∧
    b.tri = ⟨0, 0, 0⟩ ∧ b.noise.length = 0 ∧ b.noise.env = ⟨false, 0, 0⟩ ∧ b.noise.lfsr = 1 ∧
    b.noise.count = 0 ∧ b.fs.step = 0 ∧ b.fs.countdown = 183 ∧ (∀ i : Fin 9, b.hb[i] = 0) ∧
    b.dc = 0 ∧ b.rng.toNat = 88172645463325252

/-- The reset state meets the invariant and the signal bounds. That no command is pending, no buffer lent
and none handed back at reset is the model's choice (log entry 7; R53 gives none of these), and so are the
canonical form of buffers (log entry 4) and the bound on the DC estimate (log entry 14). -/
def Obligations.ResetMeetsTheInvariant : Prop :=
  State.reset.Inv ∧ State.reset.blk.SignalBound

/-- Every step from a good state answers a good state: the step index stays within the mode's table,
the countdown in 1..183, the phases in [0, 1), the duty in its table, the rings 0, the noise register
and the dither state nonzero, the noise count 0 or more (R321), and every buffer in canonical form. The
canonical form is the model's choice (log entry 4) and no rule of the spec. -/
def Obligations.StepKeepsTheInvariant : Prop :=
  ∀ s s' : State, s.Inv → step s = .next s' → s'.Inv

/-- From a good state within the signal bounds, every step stays within them: the mixer outputs within
30720 and the DC estimate within 34560. The bound 34560, 9/8 of 30720, is the model's inference and no
rule of the spec: R369 remarks 30720 for the filter output (log entry 14). -/
def Obligations.StepKeepsTheSignalBounds : Prop :=
  ∀ s s' : State, s.Inv → s.blk.SignalBound → step s = .next s' → s'.blk.SignalBound

/-! Register writes -/

/-- The registers whose write is stored and read by no rule (spec/40_apu_writes.md R180, R184, R187,
R188, R190): the byte is stored, nothing else changes, and no later sample differs. -/
def Obligations.UnusedRegisterWritesOnlyStore : Prop :=
  ∀ (d r : Byte) (s : State), 0x10 ≤ r.toNat → r.toNat < 0x14 →
    ∀ ik ∈ [(Instr.writeTriUnused d, 0x09), (.writeNoiseUnused d, 0x0D),
      (.writeDmcUnused r d, r.toNat), (.write0x14 d, 0x14), (.write0x16 d, 0x16)],
      ∃ t, exec ik.1 s = .next t ∧
        (∀ k : Fin 24, t.blk.regs[k] = if k.val = ik.2 then d else s.blk.regs[k]) ∧
        t = { s with blk := { s.blk with regs := t.blk.regs } } ∧
        (∀ a, t.out.read a = s.out.read a) ∧
        (∀ n, sampleValues Config.defaults n t.blk = sampleValues Config.defaults n s.blk)

/-- The writes to the control, noise period and status registers (R171, R175, R179, R183, R185, R189)
store the byte and change nothing else: no envelope restart, no phase or noise reset, no length
counter changed. -/
def Obligations.ControlWritesStoreAndNothingElse : Prop :=
  ∀ (d : Byte) (s : State),
    ∀ ik ∈ [(Instr.writeP1Ctrl d, 0x00), (.writeP2Ctrl d, 0x04), (.writeTriCtrl d, 0x08),
      (.writeNoiseCtrl d, 0x0C), (.writeNoisePeriod d, 0x0E), (.writeStatus d, 0x15)],
      ∃ t, exec ik.1 s = .next t ∧
        (∀ k : Fin 24, t.blk.regs[k] = if k.val = ik.2 then d else s.blk.regs[k]) ∧
        t = { s with blk := { s.blk with regs := t.blk.regs } } ∧
        (∀ a, t.out.read a = s.out.read a)

/-- The sweep registers (R172, R176): the byte is stored and the channel's sweep reload flag set; the
timer and all else stay. -/
def Obligations.SweepWritesSetTheReloadFlag : Prop :=
  ∀ (d : Byte) (s : State),
    (∃ t, exec (.writeP1Sweep d) s = .next t ∧
      (∀ k : Fin 24, t.blk.regs[k] = if k.val = 0x01 then d else s.blk.regs[k]) ∧
      t.blk.pulse1.sweep.reload = true ∧
      t = { s with blk := { s.blk with
        regs := t.blk.regs
        pulse1 := { s.blk.pulse1 with
          sweep := { s.blk.pulse1.sweep with reload := t.blk.pulse1.sweep.reload } } } } ∧
      (∀ a, t.out.read a = s.out.read a)) ∧
    (∃ t, exec (.writeP2Sweep d) s = .next t ∧
      (∀ k : Fin 24, t.blk.regs[k] = if k.val = 0x05 then d else s.blk.regs[k]) ∧
      t.blk.pulse2.sweep.reload = true ∧
      t = { s with blk := { s.blk with
        regs := t.blk.regs
        pulse2 := { s.blk.pulse2 with
          sweep := { s.blk.pulse2.sweep with reload := t.blk.pulse2.sweep.reload } } } } ∧
      (∀ a, t.out.read a = s.out.read a))

/-- The timer-low registers (R173, R177, R181): the byte is stored and becomes timer bits 7:0; bits
10:8 of the timer, and all else, stay. -/
def Obligations.TimerLowWritesKeepTheHighBits : Prop :=
  ∀ (d : Byte) (s : State),
    (∃ t, exec (.writeP1Tlo d) s = .next t ∧
      (∀ k : Fin 24, t.blk.regs[k] = if k.val = 0x02 then d else s.blk.regs[k]) ∧
      t.blk.pulse1.timer.toNat = s.blk.pulse1.timer.toNat / 256 * 256 + d.toNat ∧
      t = { s with blk := { s.blk with
        regs := t.blk.regs, pulse1 := { s.blk.pulse1 with timer := t.blk.pulse1.timer } } } ∧
      (∀ a, t.out.read a = s.out.read a)) ∧
    (∃ t, exec (.writeP2Tlo d) s = .next t ∧
      (∀ k : Fin 24, t.blk.regs[k] = if k.val = 0x06 then d else s.blk.regs[k]) ∧
      t.blk.pulse2.timer.toNat = s.blk.pulse2.timer.toNat / 256 * 256 + d.toNat ∧
      t = { s with blk := { s.blk with
        regs := t.blk.regs, pulse2 := { s.blk.pulse2 with timer := t.blk.pulse2.timer } } } ∧
      (∀ a, t.out.read a = s.out.read a)) ∧
    (∃ t, exec (.writeTriTlo d) s = .next t ∧
      (∀ k : Fin 24, t.blk.regs[k] = if k.val = 0x0A then d else s.blk.regs[k]) ∧
      t.blk.tri.timer.toNat = s.blk.tri.timer.toNat / 256 * 256 + d.toNat ∧
      t = { s with blk := { s.blk with
        regs := t.blk.regs, tri := { s.blk.tri with timer := t.blk.tri.timer } } } ∧
      (∀ a, t.out.read a = s.out.read a))

/-- The 4th registers of the pulse channels (R174, R178): timer bits 10:8 are data bits 2:0, the length
counter is LENGTH_TABLE[data bits 7:3] whatever the enable and halt bits, the envelope start flag is
set, and all else stays, the decay counter too, which is 15 after the next quarter-frame clock; and a
second such write leaves nothing of the first. The 32 entries of LENGTH_TABLE are those of
spec/00_scope.md R7. -/
def Obligations.PulseLengthWritesLoadAndStart : Prop :=
  Config.defaults.lengthTable.toList = [10, 254, 20, 2, 40, 4, 80, 6, 160, 8, 60, 10, 14, 12, 26, 14,
    12, 16, 24, 18, 48, 20, 96, 22, 192, 24, 72, 26, 16, 28, 32, 30] ∧
  ∀ (d : Byte) (s : State),
    (∃ t, exec (.writeP1Len d) s = .next t ∧
      (∀ k : Fin 24, t.blk.regs[k] = if k.val = 0x03 then d else s.blk.regs[k]) ∧
      t.blk.pulse1.timer.toNat = d.toNat % 8 * 256 + s.blk.pulse1.timer.toNat % 256 ∧
      Config.defaults.lengthTable[d.toNat / 8]? = some t.blk.pulse1.length ∧
      t.blk.pulse1.env = { s.blk.pulse1.env with start := true } ∧
      t = { s with blk := { s.blk with
        regs := t.blk.regs
        pulse1 := { s.blk.pulse1 with
          timer := t.blk.pulse1.timer, length := t.blk.pulse1.length, env := t.blk.pulse1.env } } } ∧
      (∀ a, t.out.read a = s.out.read a) ∧
      (stepQuarter t.blk).pulse1.env.decay = 15 ∧
      (∀ d', exec (.writeP1Len d') t = exec (.writeP1Len d') s)) ∧
    (∃ t, exec (.writeP2Len d) s = .next t ∧
      (∀ k : Fin 24, t.blk.regs[k] = if k.val = 0x07 then d else s.blk.regs[k]) ∧
      t.blk.pulse2.timer.toNat = d.toNat % 8 * 256 + s.blk.pulse2.timer.toNat % 256 ∧
      Config.defaults.lengthTable[d.toNat / 8]? = some t.blk.pulse2.length ∧
      t.blk.pulse2.env = { s.blk.pulse2.env with start := true } ∧
      t = { s with blk := { s.blk with
        regs := t.blk.regs
        pulse2 := { s.blk.pulse2 with
          timer := t.blk.pulse2.timer, length := t.blk.pulse2.length, env := t.blk.pulse2.env } } } ∧
      (∀ a, t.out.read a = s.out.read a) ∧
      (stepQuarter t.blk).pulse2.env.decay = 15 ∧
      (∀ d', exec (.writeP2Len d') t = exec (.writeP2Len d') s))

/-- The triangle's 4th register (R182): timer bits 10:8 and the length counter are loaded, and all else
stays. -/
def Obligations.TriangleLengthWriteLoads : Prop :=
  ∀ (d : Byte) (s : State), ∃ t, exec (.writeTriLen d) s = .next t ∧
    (∀ k : Fin 24, t.blk.regs[k] = if k.val = 0x0B then d else s.blk.regs[k]) ∧
    t.blk.tri.timer.toNat = d.toNat % 8 * 256 + s.blk.tri.timer.toNat % 256 ∧
    Config.defaults.lengthTable[d.toNat / 8]? = some t.blk.tri.length ∧
    t = { s with blk := { s.blk with
      regs := t.blk.regs
      tri := { s.blk.tri with timer := t.blk.tri.timer, length := t.blk.tri.length } } } ∧
    (∀ a, t.out.read a = s.out.read a)

/-- The noise channel's 4th register (R186): the length counter is loaded and the envelope start flag
set; the shift register, its count and all else stay. -/
def Obligations.NoiseLengthWriteLoadsAndStarts : Prop :=
  ∀ (d : Byte) (s : State), ∃ t, exec (.writeNoiseLen d) s = .next t ∧
    (∀ k : Fin 24, t.blk.regs[k] = if k.val = 0x0F then d else s.blk.regs[k]) ∧
    Config.defaults.lengthTable[d.toNat / 8]? = some t.blk.noise.length ∧
    t.blk.noise.env = { s.blk.noise.env with start := true } ∧
    t = { s with blk := { s.blk with
      regs := t.blk.regs
      noise := { s.blk.noise with length := t.blk.noise.length, env := t.blk.noise.env } } } ∧
    (∀ a, t.out.read a = s.out.read a)

/-- The frame-sequencer register (R191): the byte is stored and the step index becomes 0, whatever the
mode was; the countdown and all else stay, and the next tick performs step 0 of the selected table,
which is Q in both modes. -/
def Obligations.FrameWriteResetsOnlyTheStep : Prop :=
  ∀ (d : Byte) (s : State), ∃ t, exec (.writeFrame d) s = .next t ∧
    (∀ k : Fin 24, t.blk.regs[k] = if k.val = 0x17 then d else s.blk.regs[k]) ∧
    t.blk.fs = ⟨0, s.blk.fs.countdown⟩ ∧
    t = { s with blk := { s.blk with regs := t.blk.regs, fs := t.blk.fs } } ∧
    (∀ a, t.out.read a = s.out.read a) ∧
    tickAction Config.defaults t.blk = .quarter ∧
    stepTable Config.defaults t.blk =
      if d.toNat / 128 = 1 then Config.defaults.stepTable5 else Config.defaults.stepTable4

/-- R192: a WRITE to a register number of 0x18 or above changes no state, and 0x18 is no alias of
0x00. -/
def Obligations.IgnoredWritesChangeNothing : Prop :=
  ∀ (r d : Byte) (s : State),
    exec (.writeIgn18 r d) s = .next s ∧ exec (.writeIgn20 r d) s = .next s ∧
      exec (.writeIgn40 r d) s = .next s ∧ exec (.writeIgn80 r d) s = .next s ∧
      (0x18 ≤ r.toNat → exec (decodeWrite r d) s = .next s)

/-- R462, R403: SILENCE clears the status register, so that every channel's amplitude is 0 in every
later output sample until a write, and changes nothing else. -/
def Obligations.SilenceClearsOnlyTheStatus : Prop :=
  ∀ s : State, ∃ t, exec .silence s = .next t ∧
    (∀ k : Fin 24, t.blk.regs[k] = if k.val = 0x15 then 0x00 else s.blk.regs[k]) ∧
    t = { s with blk := { s.blk with regs := t.blk.regs } } ∧
    (∀ a, t.out.read a = s.out.read a) ∧
    (∀ n, amplitudes Config.defaults (frameCountdown Config.defaults (afterSamples Config.defaults n t.blk)) =
      ⟨0, 0, 0, 0⟩)

/-- No WRITE and no SILENCE renders a sample or advances an oscillator, a counter or the sequencer
(spec/40_apu_writes.md, opening): the oscillators, the noise register and its count, the dividers and
decay counters, the countdown, the delay line, the DC estimate and the dither state stay. -/
def Obligations.OnlyRenderAdvancesTheSynthesis : Prop :=
  ∀ (i : Instr) (s t : State), (∀ n, i ≠ .render n) → exec i s = .next t →
    t.blk.pulse1.osc = s.blk.pulse1.osc ∧ t.blk.pulse2.osc = s.blk.pulse2.osc ∧
      t.blk.tri.phase = s.blk.tri.phase ∧ t.blk.noise.lfsr = s.blk.noise.lfsr ∧
      t.blk.noise.count = s.blk.noise.count ∧
      t.blk.pulse1.env.divider = s.blk.pulse1.env.divider ∧
      t.blk.pulse1.env.decay = s.blk.pulse1.env.decay ∧
      t.blk.pulse2.env.divider = s.blk.pulse2.env.divider ∧
      t.blk.pulse2.env.decay = s.blk.pulse2.env.decay ∧
      t.blk.noise.env.divider = s.blk.noise.env.divider ∧
      t.blk.noise.env.decay = s.blk.noise.env.decay ∧
      t.blk.pulse1.sweep.divider = s.blk.pulse1.sweep.divider ∧
      t.blk.pulse2.sweep.divider = s.blk.pulse2.sweep.divider ∧
      t.blk.fs.countdown = s.blk.fs.countdown ∧ t.blk.hb = s.blk.hb ∧ t.blk.dc = s.blk.dc ∧
      t.blk.rng = s.blk.rng ∧ t.out = s.out ∧ t.pending = s.pending ∧ t.returned = s.returned ∧
      t.refusalMark = s.refusalMark

/-! RENDER -/

/-- R402: `RENDER 0` changes no state and no buffer element. -/
def Obligations.RenderZeroIsANoOp : Prop :=
  ∀ s : State, exec (.render 0) s = .next s

/-- R368, with the host's buffer duty of R107: a RENDER whose buffer has `count` elements or more
completes; element i becomes the saturated sum of what it held and the i-th sample for i below `count`,
every other element stays, and the register file and the host's queue stay. With a shorter buffer it
is refused. -/
def Obligations.RenderAddsEachSampleOnce : Prop :=
  (∀ (n : Nat) (s : State), s.out.wf = true → n ≤ s.out.size →
      ∃ t, exec (.render n) s = .next t ∧
        t.blk = afterSamples Config.defaults n s.blk ∧ t.blk.regs = s.blk.regs ∧
        t.out.size = s.out.size ∧
        (∀ i < n, (t.out.read i).toInt =
          max (-32768) (min 32767 ((s.out.read i).toInt +
            sampleValue Config.defaults (afterSamples Config.defaults i s.blk)))) ∧
        (∀ i, n ≤ i → t.out.read i = s.out.read i) ∧
        t.pending = s.pending ∧ t.returned = s.returned ∧ t.refusalMark = s.refusalMark) ∧
    (∀ (n : Nat) (s : State), s.out.size < n →
      exec (.render n) s = .refused (.shortBuffer n s.out.size))

/-- `RENDER a` and then `RENDER b` on the buffer offset by a give the state and the samples of
`RENDER a+b` (spec/44_control.md R401). -/
def Obligations.SplitRenderIsExact : Prop :=
  ∀ (a b : Nat) (s : State) (m : Memory), s.out.wf = true → a + b ≤ s.out.size → m.wf = true →
    b ≤ m.size → (∀ i < b, m.read i = s.out.read (a + i)) →
    ∃ t u v, exec (.render (a + b)) s = .next t ∧ exec (.render a) s = .next u ∧
      exec (.render b) { u with out := m } = .next v ∧ v.blk = t.blk ∧
      (∀ i < a, t.out.read i = u.out.read i) ∧ (∀ i < b, t.out.read (a + i) = v.out.read i)

/-! Frame sequencer and its units -/

/-- R230: with n output samples fewer than the countdown, no tick comes: the step index, the timers,
length counters, envelopes and sweep units stay and the countdown falls by n. The sample that brings
the countdown to 0 reloads it with 183 and ticks. From reset the first tick is in sample 182. -/
def Obligations.TicksComeWhenTheCountdownEnds : Prop :=
  (∀ (b : Block) (n : Nat), n < b.fs.countdown →
      let t := afterSamples Config.defaults n b
      t.fs = ⟨b.fs.step, b.fs.countdown - n⟩ ∧
        t.pulse1.timer = b.pulse1.timer ∧ t.pulse1.length = b.pulse1.length ∧
        t.pulse1.env = b.pulse1.env ∧ t.pulse1.sweep = b.pulse1.sweep ∧
        t.pulse2.timer = b.pulse2.timer ∧ t.pulse2.length = b.pulse2.length ∧
        t.pulse2.env = b.pulse2.env ∧ t.pulse2.sweep = b.pulse2.sweep ∧
        t.tri.timer = b.tri.timer ∧ t.tri.length = b.tri.length ∧
        t.noise.length = b.noise.length ∧ t.noise.env = b.noise.env) ∧
    (∀ b : Block, b.fs.countdown = 1 →
      frameCountdown Config.defaults b =
        fsTick Config.defaults { b with fs := ⟨b.fs.step, 183⟩ }) ∧
    (∀ b : Block, 0 < b.fs.countdown →
      (afterSamples Config.defaults b.fs.countdown b).fs =
        ⟨(b.fs.step + 1) % (stepTable Config.defaults b).length, 183⟩) ∧
    (afterSamples Config.defaults 182 Block.reset).fs = ⟨0, 1⟩ ∧
    (afterSamples Config.defaults 183 Block.reset).fs = ⟨1, 183⟩

/-- R232, R233: the 4-step sequence is Q, H, Q, H and the 5-step sequence Q, H, Q, H, N, so that from
any position of the table 4 ticks of the one perform 2 Q and 2 H, and 5 ticks of the other 2 Q, 2 H and
1 N. -/
def Obligations.TickWindowsClockTheStatedCounts : Prop :=
  (∀ b : Block, fiveStep b.regs[0x17] = false → b.fs.step < 4 →
      (b.fs.step = 0 → tickActions Config.defaults 4 b = [.quarter, .half, .quarter, .half]) ∧
        (tickActions Config.defaults 4 b).count .quarter = 2 ∧
        (tickActions Config.defaults 4 b).count .half = 2) ∧
    (∀ b : Block, fiveStep b.regs[0x17] = true → b.fs.step < 5 →
      (b.fs.step = 0 →
          tickActions Config.defaults 5 b = [.quarter, .half, .quarter, .half, .null]) ∧
        (tickActions Config.defaults 5 b).count .quarter = 2 ∧
        (tickActions Config.defaults 5 b).count .half = 2 ∧
        (tickActions Config.defaults 5 b).count .null = 1)

/-- R234 to R236: a Q step clocks the three envelopes and nothing else, an H step clocks the four
length counters, with the halt bits of R252, and the two sweep units and nothing else, and an N step
nothing. -/
def Obligations.StepsClockOnlyTheirUnits : Prop :=
  ∀ b : Block,
    performStep .quarter b = { b with
      pulse1 := { b.pulse1 with env := clockEnvelope b.pulse1.env b.regs[0x00] }
      pulse2 := { b.pulse2 with env := clockEnvelope b.pulse2.env b.regs[0x04] }
      noise := { b.noise with env := clockEnvelope b.noise.env b.regs[0x0C] } } ∧
    performStep .half b = { b with
      pulse1 := { b.pulse1 with
        timer := (clockSweep .p1 b.regs[0x01] b.pulse1).timer
        sweep := (clockSweep .p1 b.regs[0x01] b.pulse1).sweep
        length := clockLength b.pulse1.length (b.regs[0x00].getLsbD 5) }
      pulse2 := { b.pulse2 with
        timer := (clockSweep .p2 b.regs[0x05] b.pulse2).timer
        sweep := (clockSweep .p2 b.regs[0x05] b.pulse2).sweep
        length := clockLength b.pulse2.length (b.regs[0x04].getLsbD 5) }
      tri := { b.tri with length := clockLength b.tri.length (b.regs[0x08].getLsbD 7) }
      noise := { b.noise with length := clockLength b.noise.length (b.regs[0x0C].getLsbD 5) } } ∧
    performStep .null b = b

/-- R245: one clock of an envelope, with V and loop from the channel's register 0, in numbers; and the
rule's example of seven clocks. -/
def Obligations.EnvelopeClockFollowsItsCases : Prop :=
  (∀ (e : Envelope) (r0 : Byte),
      let e' := clockEnvelope e r0
      e'.start = false ∧
        (e.start = true → e'.decay.toNat = 15 ∧ e'.divider.toNat = r0.toNat % 16) ∧
        (e.start = false → e.divider.toNat = 0 →
          e'.divider.toNat = r0.toNat % 16 ∧
            e'.decay.toNat = if 0 < e.decay.toNat then e.decay.toNat - 1
              else if r0.toNat / 32 % 2 = 1 then 15 else 0) ∧
        (e.start = false → 0 < e.divider.toNat →
          e'.divider.toNat = e.divider.toNat - 1 ∧ e'.decay = e.decay)) ∧
    (∀ e : Envelope, e.start = true →
      (List.range 7).map (fun n => ((envelopeAfter 0x02 (n + 1) e).divider.toNat,
        (envelopeAfter 0x02 (n + 1) e).decay.toNat)) =
        [(2, 15), (1, 15), (0, 15), (2, 14), (1, 14), (0, 14), (2, 13)])

/-- An envelope of period V with no start pending, its divider just reloaded, lowers its decay counter
by one in V + 1 clocks and is then at the same point of its divider (spec/41_apu_sequencer.md R247). -/
def Obligations.EnvelopeDecaysOncePerPeriod : Prop :=
  ∀ (e : Envelope) (r0 : Byte), e.start = false → e.divider = volume r0 → 0 < e.decay.toNat →
    envelopeAfter r0 ((volume r0).toNat + 1) e = ⟨false, volume r0, e.decay - 1⟩

/-- R251: a half-frame clock lowers an unhalted length counter by one, never below 0, and leaves a
halted one. -/
def Obligations.LengthClockStopsAtZero : Prop :=
  ∀ l : Byte, (clockLength l false).toNat = l.toNat - 1 ∧ clockLength l true = l

/-- An unhalted length counter holding n reaches 0 after n half-frame clocks and not before, and stays
there; a halted one never changes (spec/41_apu_sequencer.md R253, spec/70_reset_and_hazards.md
R466). -/
def Obligations.LengthRunsOutAfterItsCount : Prop :=
  ∀ (n : Nat) (l : Byte),
    (lengthAfter false n l).toNat = l.toNat - n ∧ lengthAfter true n l = l

/-- R260 to R262: one half-frame clock of a sweep unit, in integers. The target is the timer plus or
minus the shifted timer, one less again for a negated pulse 1; the timer takes it when the divider is
0, the sweep enabled, the shift not 0, the timer at least 8 and the target in 0..0x7FF; then the
divider reloads from the period when it was 0 or a reload was pending, which it clears, and else counts
down. That a target of 0..7 is taken is the model's choice between R261's pseudocode with V-SW-16, which
it follows, and the remarks of R261 and R264 that the timer stays at 8 or above (log entry 13). -/
def Obligations.SweepClockFollowsTheRule : Prop :=
  ∀ (p : PulseIx) (r1 : Byte) (x : Pulse),
    let t : ℤ := x.timer.toNat
    let ss := r1.toNat % 8
    let shifted : ℤ := x.timer.toNat / 2 ^ ss
    let target : ℤ :=
      if r1.toNat / 8 % 2 = 1 then (if p = .p1 then t - shifted - 1 else t - shifted)
      else t + shifted
    let y := clockSweep p r1 x
    (y.timer.toNat : ℤ) =
        (if x.sweep.divider.toNat = 0 ∧ r1.toNat / 128 = 1 ∧ ss ≠ 0 ∧ 8 ≤ t ∧ 0 ≤ target ∧
            target ≤ 0x7FF then target else t) ∧
      y.sweep.divider.toNat =
        (if x.sweep.divider.toNat = 0 ∨ x.sweep.reload = true then r1.toNat / 16 % 8
          else x.sweep.divider.toNat - 1) ∧
      y.sweep.reload = false ∧
      y.length = x.length ∧ y.env = x.env ∧ y.osc = x.osc

/-- A negated target of pulse 1 is one less than pulse 2's, and a shift of 0 never updates
(spec/41_apu_sequencer.md R264). -/
def Obligations.NegatedTargetsDifferByOne : Prop :=
  (∀ (r1 : Byte) (t : Timer), sweepNegate r1 = true →
      sweepTarget .p1 r1 t = sweepTarget .p2 r1 t - 1) ∧
    (∀ (p : PulseIx) (r1 : Byte) (x : Pulse), sweepShift r1 = 0 →
      (clockSweep p r1 x).timer = x.timer) ∧
    sweepTarget .p1 0x89 0x200 = 0xFF ∧ sweepTarget .p2 0x89 0x200 = 0x100

/-! Gates and amplitudes -/

/-- R241, R270, R271: a pulse or noise channel plays its volume field when its constant flag is set and
else its decay counter, while its enable bit is set and its length counter is not 0, and else 0; the
triangle plays 15 under the same two conditions. There is no further condition. -/
def Obligations.AmplitudesFollowTheGates : Prop :=
  ∀ b : Block,
    let play (reg0 : Byte) (e : Envelope) : Nat :=
      if reg0.toNat / 16 % 2 = 1 then reg0.toNat % 16 else e.decay.toNat
    let en (k : Nat) : Prop := b.regs[0x15].toNat / 2 ^ k % 2 = 1
    (amplitudes Config.defaults b).p1 =
        (if en 0 ∧ b.pulse1.length ≠ 0 then play b.regs[0x00] b.pulse1.env else 0) ∧
      (amplitudes Config.defaults b).p2 =
        (if en 1 ∧ b.pulse2.length ≠ 0 then play b.regs[0x04] b.pulse2.env else 0) ∧
      (amplitudes Config.defaults b).tri = (if en 2 ∧ b.tri.length ≠ 0 then 15 else 0) ∧
      (amplitudes Config.defaults b).noise =
        (if en 3 ∧ b.noise.length ≠ 0 then play b.regs[0x0C] b.noise.env else 0)

/-- R273: a closed gate makes its channel's amplitude 0, so that the channel adds nothing to the mix,
and stops nothing: two blocks that differ only in what opens or closes gates (enables, length counters,
volumes, envelopes), in the delay line and in the DC estimate have the same phases, rings, noise
register, noise count, timers, sequencer and dither state after any number of output samples. -/
def Obligations.GatesStopNoOscillator : Prop :=
  (∀ b : Block,
      (gatePulse b .p1 = false → (amplitudes Config.defaults b).p1 = 0) ∧
        (gatePulse b .p2 = false → (amplitudes Config.defaults b).p2 = 0) ∧
        (gateTri b = false → (amplitudes Config.defaults b).tri = 0) ∧
        (gateNoise b = false → (amplitudes Config.defaults b).noise = 0)) ∧
    (∀ (a b : Block), a.SameRunning b → ∀ n : Nat,
      (afterSamples Config.defaults n a).SameRunning (afterSamples Config.defaults n b))

/-- A register bit marked `-`, and a timer or length byte once written, is read by no rule while
samples are rendered (spec/30_encoding.md R140, R155): two blocks that differ only there give the same
samples, and differ only there afterwards. -/
def Obligations.UnreadBitsAreInvisible : Prop :=
  ∀ (a b : Block), a.SameReadBits b → ∀ n : Nat,
    sampleValues Config.defaults n a = sampleValues Config.defaults n b ∧
      (afterSamples Config.defaults n a).SameReadBits (afterSamples Config.defaults n b)

/-! Oscillators -/

/-- R293: the duty of a pulse channel is 1/8, 1/4, 1/2 or 3/4 by register 0 bits 7:6, and its phase
increment is APU_CLOCK / (16 (timer + 1)) / F_INT, which is above 0; both are read from the state at
each internal sample, for the value played and for the oscillator's advance; with the rule's example. -/
def Obligations.PulseParametersFollowTheRegisters : Prop :=
  (∀ r : Byte, some (dutyOf Config.defaults r) =
      ([1 / 8, 1 / 4, 1 / 2, 3 / 4] : List ℚ)[r.toNat / 64]?) ∧
    (∀ t : Timer, pulseDelta Config.defaults t = 1789773 / (16 * (t.toNat + 1)) / 88200 ∧
      0 < pulseDelta Config.defaults t) ∧
    (∀ (a : Amplitudes) (b : Block),
      (internalSample Config.defaults a b).pulse1.osc = pulseAdvance Config.defaults b.pulse1.osc
          (dutyOf Config.defaults b.regs[0x00]) (pulseDelta Config.defaults b.pulse1.timer) ∧
        (internalSample Config.defaults a b).pulse2.osc = pulseAdvance Config.defaults b.pulse2.osc
          (dutyOf Config.defaults b.regs[0x04]) (pulseDelta Config.defaults b.pulse2.timer) ∧
        unitPulse Config.defaults b .p1 = pulseValue Config.defaults b.pulse1.osc
          (dutyOf Config.defaults b.regs[0x00]) (pulseDelta Config.defaults b.pulse1.timer) ∧
        unitPulse Config.defaults b .p2 = pulseValue Config.defaults b.pulse2.osc
          (dutyOf Config.defaults b.regs[0x04]) (pulseDelta Config.defaults b.pulse2.timer)) ∧
    pulseDelta Config.defaults 0x0FD = 1789773 / 358444800

/-- The edges of an internal sample: for each number c of the half-open interval (φ, φ + Δ] that is an
integer or has fractional part d, one edge at the time (c - φ) / Δ, of height +2 at an integer and else
-2, in increasing order of time and with no others (spec/42_oscillators.md R290, R295). They come from
candidates in increasing order that hold every such c (log entry 12). -/
def Obligations.EdgeListIsTheIntervalsEdges : Prop :=
  ∀ φ Δ d : ℚ, 0 < Δ →
    (∀ e : Edge, e ∈ phaseEdges φ Δ d ↔
      ∃ x : ℚ, φ < x ∧ x ≤ φ + Δ ∧ (frac x = 0 ∨ frac x = d) ∧
        e = ⟨(x - φ) / Δ, if frac x = 0 then 2 else -2⟩) ∧
    (phaseEdges φ Δ d).Pairwise (fun e e' => e.time < e'.time) ∧
    (∀ x : ℚ, (x ∈ edgeCandidates φ Δ d ∧ φ < x ∧ x ≤ φ + Δ) ↔
      (φ < x ∧ x ≤ φ + Δ ∧ (frac x = 0 ∨ frac x = d))) ∧
    (edgeCandidates φ Δ d).Pairwise (· < ·)

/-- With the box kernel and the duty unchanged, the pulse value of a sample is the mean of the ideal
pulse over the sample's interval, and the ring is 0 afterwards (spec/42_oscillators.md R292). -/
def Obligations.BoxPulseIsTheIntervalMean : Prop :=
  ∀ (o : PulseOsc) (d Δ : ℚ), 0 < d → d < 1 → 0 < Δ → 0 ≤ o.phase → o.phase < 1 →
    o.dutyPrev = d → o.ring = [0, 0] →
    pulseValue Config.defaults o d Δ =
        (2 * (highTime d (o.phase + Δ) - highTime d o.phase) - Δ) / Δ ∧
      (pulseAdvance Config.defaults o d Δ).ring = [0, 0]

/-- A duty change makes exactly one edge, at time 0 of the next sample, whose height is the difference
of the two levels at the phase, +2 or -2, and none when that difference is 0 (spec/42_oscillators.md
R290, R291). The box kernel settles it within that sample: the value does not depend on the duty
before. -/
def Obligations.DutyChangeSettlesAtOnce : Prop :=
  (∀ (o : PulseOsc) (d : ℚ), dutyEdge o d =
      if level o.phase d = level o.phase o.dutyPrev then []
      else [⟨0, level o.phase d - level o.phase o.dutyPrev⟩]) ∧
    (∀ (o : PulseOsc) (d : ℚ), ∀ e ∈ dutyEdge o d, e.height = 2 ∨ e.height = -2) ∧
    (∀ (o : PulseOsc) (d Δ : ℚ), pulseValue Config.defaults o d Δ =
      pulseValue Config.defaults { o with dutyPrev := d } d Δ)

/-- The pulse's unit value lies in [-1, 1] (spec/42_oscillators.md R296). -/
def Obligations.PulseUnitStaysWithinOne : Prop :=
  ∀ (o : PulseOsc) (d Δ : ℚ), o.Inv → 0 < d → d < 1 → 0 < Δ →
    -1 ≤ pulseValue Config.defaults o d Δ ∧ pulseValue Config.defaults o d Δ ≤ 1

/-- R310 to R312: the triangle's increment is APU_CLOCK / (32 timer) / F_INT and 0 for timer 0, where
the phase stays; its value rises from -1 at phase 0 to +1 at 1/2 and falls back; its phase wraps at
1. -/
def Obligations.TriangleFollowsItsRamp : Prop :=
  (∀ t : Timer, t ≠ 0 → triDelta Config.defaults t = 1789773 / (32 * t.toNat) / 88200) ∧
    (∀ x : Triangle, x.timer = 0 → 0 ≤ x.phase → x.phase < 1 → triAdvance Config.defaults x = x) ∧
    (∀ x : Triangle, 0 ≤ x.phase → x.phase < 1 →
      triAdvance Config.defaults x =
        { x with phase := x.phase + triDelta Config.defaults x.timer -
          ⌊x.phase + triDelta Config.defaults x.timer⌋ }) ∧
    (∀ ψ : ℚ, 0 ≤ ψ → ψ < 1 → triValue ψ = 1 - 2 * |2 * ψ - 1| ∧ -1 ≤ triValue ψ ∧ triValue ψ ≤ 1)

/-- R320: one step of the noise register shifts it right by one and puts bit 0 XOR bit 1, or in mode 1
bit 0 XOR bit 6, into bit 14; a register that is not 0 stays so. -/
def Obligations.LfsrShiftsInItsFeedback : Prop :=
  ∀ (mode : Bool) (l : BitVec 15),
    (∀ i < 14, (lfsrStep Config.defaults mode l).getLsbD i = l.getLsbD (i + 1)) ∧
      (lfsrStep Config.defaults mode l).getLsbD 14 =
        (l.getLsbD 0 ^^ l.getLsbD (if mode then 6 else 1)) ∧
      (l ≠ 0 → lfsrStep Config.defaults mode l ≠ 0)

/-- R321: a noise clock lowers the count by one and then, k times, steps the register and adds the
period, where k is the least number of times that brings the count above 0: at most once from a count
of 0 or more with the default table. It changes nothing else, and each internal sample performs it once,
with mode and period read then. The period is the entry that register bits 3:0 select in the PAL table of
spec/00_scope.md R7, whose 16 entries are 4 or more. -/
def Obligations.NoiseClockReloadsUntilPositive : Prop :=
  (∀ (c : Config) (r2 : Byte) (n : Noise), 0 < noisePeriod c r2 →
      ∃ k : Nat,
        noiseClock c r2 n = { n with
          lfsr := (lfsrStep c (r2.getLsbD 7))^[k] n.lfsr
          count := n.count - 1 + k * noisePeriod c r2 } ∧
        0 < n.count - 1 + k * noisePeriod c r2 ∧
        (∀ j < k, n.count - 1 + j * noisePeriod c r2 ≤ 0)) ∧
    (∀ (a : Amplitudes) (b : Block), (internalSample Config.defaults a b).noise =
      noiseClock Config.defaults b.regs[0x0E] b.noise) ∧
    (∀ r2 : Byte, some (noisePeriod Config.defaults r2) =
      ([4, 8, 14, 30, 60, 88, 118, 148, 188, 236, 354, 472, 708, 944, 1890, 3778] :
        List ℚ)[r2.toNat % 16]?) ∧
    (∀ r2 : Byte, 4 ≤ noisePeriod Config.defaults r2) ∧
    (∀ (r2 : Byte) (n : Noise), 0 ≤ n.count →
      noiseClock Config.defaults r2 n =
        if 1 < n.count then { n with count := n.count - 1 }
        else { n with
          lfsr := lfsrStep Config.defaults (r2.getLsbD 7) n.lfsr
          count := n.count - 1 + noisePeriod Config.defaults r2 })

/-! Mixer, filter, quantiser -/

/-- In a good state every mixer output of an output sample lies within 4 · 15 · 512 = 30720
(spec/43_mixer.md R352), and it is 512 times the sum of the four channels' outputs. -/
def Obligations.MixerStaysWithinItsRange : Prop :=
  ∀ b : Block, b.Inv →
    |mixSum Config.defaults (amplitudes Config.defaults b) b| ≤ 30720 ∧
      ∀ a : Amplitudes, mixSum Config.defaults a b =
        512 * (a.p1 * unitPulse Config.defaults b .p1 + a.p2 * unitPulse Config.defaults b .p2 +
          a.tri * triValue b.tri.phase + a.noise * (if b.noise.lfsr.getLsbD 0 then -1 else 1))

/-- R353: a push moves every entry of the delay line one place on and puts the new sample first. -/
def Obligations.DelayLinePushShifts : Prop :=
  ∀ (hb : Vector ℚ 9) (x : ℚ),
    (pushSample hb x)[0] = x ∧
      ∀ (k : Nat) (h : k < 8), (pushSample hb x)[k + 1] = hb[k]

/-- The filter output is the coefficients' sum of products (spec/43_mixer.md R355); a delay line of one
constant gives that constant for every coefficient set of R356; and a 1 in place k of an otherwise zero
delay line gives coefficient k. -/
def Obligations.FilterHasUnityGain : Prop :=
  (∀ hb : Vector ℚ 9, decimate Config.defaults hb =
      -1 / 32 * (hb[1] + hb[7]) + 9 / 32 * (hb[3] + hb[5]) + 1 / 2 * hb[4]) ∧
    (∀ (c : Config) (hb : Vector ℚ 9) (x : ℚ), c.Wf → (∀ i : Fin 9, hb[i] = x) →
      decimate c hb = x) ∧
    (∀ k : Nat, k < 9 → ∀ hb : Vector ℚ 9, (∀ i : Fin 9, hb[i] = if i.val = k then 1 else 0) →
      some (decimate Config.defaults hb) =
        ([0, -1 / 32, 0, 9 / 32, 1 / 2, 9 / 32, 0, -1 / 32, 0] : List ℚ)[k]?)

/-- After SILENCE the filter output is 0 from the fourth output sample on
(spec/44_control.md R403). -/
def Obligations.SilenceEmptiesTheFilter : Prop :=
  ∀ s t : State, exec .silence s = .next t → ∀ n, 3 ≤ n →
    decimate Config.defaults
      (synthesise Config.defaults (afterSamples Config.defaults n t.blk)).hb = 0

/-- R361: the generator's next word by its three shifts, which drop the bits shifted out; a nonzero
word never gives 0, and the seed is not 0; with the rule's example. -/
def Obligations.XorshiftNeverReachesZero : Prop :=
  (∀ x : BitVec 64, xorshift64 Config.defaults x =
      (let x1 := x ^^^ (x <<< 13)
       let x2 := x1 ^^^ (x1 >>> 7)
       x2 ^^^ (x2 <<< 17))) ∧
    (∀ x : BitVec 64, x ≠ 0 → xorshift64 Config.defaults x ≠ 0) ∧
    Config.defaults.ditherSeed ≠ 0 ∧ xorshift64 Config.defaults 1 = 0x40822041

/-- R363: the dither of an output sample is r1 + r2 - 1 for two draws of 53 bits, in [-1, 1), and n
output samples draw 2n times whatever they play. -/
def Obligations.EachSampleDrawsTwice : Prop :=
  (∀ x : BitVec 64,
      let x1 := xorshift64 Config.defaults x
      let x2 := xorshift64 Config.defaults x1
      tpdf Config.defaults x =
          ((x1.toNat / 2 ^ 11 : Nat) : ℚ) / 2 ^ 53 + ((x2.toNat / 2 ^ 11 : Nat) : ℚ) / 2 ^ 53 - 1 ∧
        -1 ≤ tpdf Config.defaults x ∧ tpdf Config.defaults x < 1) ∧
    (∀ (n : Nat) (b : Block), (afterSamples Config.defaults n b).rng =
      (xorshift64 Config.defaults)^[2 * n] b.rng)

/-- R362: each output sample moves the DC estimate 2^-16 of the way to the filter output, and the
updated estimate is what is subtracted; with the rule's example. -/
def Obligations.DcTrackerMovesBeforeItIsSubtracted : Prop :=
  (∀ (y : ℚ) (b : Block),
      (quantiseState Config.defaults y b).dc = b.dc + (y - b.dc) / 65536 ∧
        quantiseValue Config.defaults y b =
          clipTrunc (y - (quantiseState Config.defaults y b).dc + tpdf Config.defaults b.rng)) ∧
    dcTrack Config.defaults 65536 0 = 1

/-- R365, R366: clip to the 16-bit range, then round toward zero. -/
def Obligations.QuantiserClipsAndRoundsTowardZero : Prop :=
  ∀ v : ℚ,
    (-32768 ≤ clipTrunc v ∧ clipTrunc v ≤ 32767) ∧
      (32767 ≤ v → clipTrunc v = 32767) ∧ (v ≤ -32768 → clipTrunc v = -32768) ∧
      (0 ≤ v → v < 32767 → (clipTrunc v : ℚ) ≤ v ∧ v < clipTrunc v + 1) ∧
      (-32768 < v → v < 0 → v ≤ clipTrunc v ∧ (clipTrunc v : ℚ) - 1 < v)

/-- From reset, with no register written, every output sample is 0 or -1, and -1 only when both draws
are 0 (spec/10_state.md R54). -/
def Obligations.UnwrittenBlockIsSilent : Prop :=
  ∀ n : Nat,
    let b := afterSamples Config.defaults n Block.reset
    sampleValue Config.defaults b = if tpdf Config.defaults b.rng = -1 then -1 else 0

/-! Assembler -/

/-- The words of the commands each kind of assembler line stands for, as numbers, and when its operands
fit (spec/30_encoding.md R136, R137): register times 256 plus data for a WRITE, 2^30 plus the count for a
RENDER, 2^31 for SILENCE. The commands of a line whose operands fit are well-formed. The ranges of `mask`
and `m`, which R137 does not list, are the model's choice (log entry 15). -/
def Obligations.AssemblerLinesSpellTheirWords : Prop :=
  let words (l : AsmLine) : List Nat := l.expand.map fun i => (encode i).toNat
  let base (p : Nat) : Nat := if p = 1 then 0x00 else 0x04
  (∀ reg data : Nat, (AsmLine.write reg data).fits = true ↔ reg < 256 ∧ data < 256) ∧
    (∀ reg data : Nat, (AsmLine.write reg data).fits = true →
      words (.write reg data) = [reg * 256 + data]) ∧
    (∀ count : Nat, (AsmLine.render count).fits = true ↔ count < 2 ^ 30) ∧
    (∀ count : Nat, (AsmLine.render count).fits = true →
      words (.render count) = [2 ^ 30 + count]) ∧
    (AsmLine.silence.fits = true ∧ words .silence = [2 ^ 31]) ∧
    (AsmLine.nop.fits = true ∧ AsmLine.nop.expand = [.render 0] ∧ words .nop = [2 ^ 30]) ∧
    (∀ p duty halt const vol : Nat, (AsmLine.pulse p duty halt const vol).fits = true ↔
      (p = 1 ∨ p = 2) ∧ duty < 4 ∧ halt < 2 ∧ const < 2 ∧ vol < 16) ∧
    (∀ p duty halt const vol : Nat, (AsmLine.pulse p duty halt const vol).fits = true →
      words (.pulse p duty halt const vol) =
        [base p * 256 + (duty * 64 + halt * 32 + const * 16 + vol)]) ∧
    (∀ p en period neg shift : Nat, (AsmLine.sweep p en period neg shift).fits = true ↔
      (p = 1 ∨ p = 2) ∧ en < 2 ∧ period < 8 ∧ neg < 2 ∧ shift < 8) ∧
    (∀ p en period neg shift : Nat, (AsmLine.sweep p en period neg shift).fits = true →
      words (.sweep p en period neg shift) =
        [(base p + 1) * 256 + (en * 128 + period * 16 + neg * 8 + shift)]) ∧
    (∀ p t len : Nat, (AsmLine.ptimer p t len).fits = true ↔
      (p = 1 ∨ p = 2) ∧ t < 2048 ∧ len < 32) ∧
    (∀ p t len : Nat, (AsmLine.ptimer p t len).fits = true →
      words (.ptimer p t len) =
        [(base p + 2) * 256 + t % 256, (base p + 3) * 256 + (len * 8 + t / 256)]) ∧
    (∀ t len : Nat, (AsmLine.ttimer t len).fits = true ↔ t < 2048 ∧ len < 32) ∧
    (∀ t len : Nat, (AsmLine.ttimer t len).fits = true →
      words (.ttimer t len) = [0x0A * 256 + t % 256, 0x0B * 256 + (len * 8 + t / 256)]) ∧
    (∀ halt const vol mode idx len : Nat, (AsmLine.noise halt const vol mode idx len).fits = true ↔
      halt < 2 ∧ const < 2 ∧ vol < 16 ∧ mode < 2 ∧ idx < 16 ∧ len < 32) ∧
    (∀ halt const vol mode idx len : Nat, (AsmLine.noise halt const vol mode idx len).fits = true →
      words (.noise halt const vol mode idx len) =
        [0x0C * 256 + (halt * 32 + const * 16 + vol), 0x0E * 256 + (mode * 128 + idx),
          0x0F * 256 + len * 8]) ∧
    (∀ mask : Nat, (AsmLine.enable mask).fits = true ↔ mask < 256) ∧
    (∀ mask : Nat, (AsmLine.enable mask).fits = true → words (.enable mask) = [0x15 * 256 + mask]) ∧
    (∀ m : Nat, (AsmLine.fsmode m).fits = true ↔ m < 2) ∧
    (∀ m : Nat, (AsmLine.fsmode m).fits = true → words (.fsmode m) = [0x17 * 256 + m * 128]) ∧
    (∀ l : AsmLine, l.fits = true → ∀ i ∈ l.expand, i.wf = true)

/-- `PTIMER p, t, len` loads pulse p's timer with t and its length counter with LENGTH_TABLE[len]
(spec/30_encoding.md R137). -/
def Obligations.PtimerLoadsTimerAndLength : Prop :=
  ∀ (p t len : Nat) (s : State), (AsmLine.ptimer p t len).fits = true →
    ∃ u, execAll (AsmLine.ptimer p t len).expand s = .next u ∧
      (u.blk.pulse (if p = 1 then .p1 else .p2)).timer.toNat = t ∧
      Config.defaults.lengthTable[len]? =
        some (u.blk.pulse (if p = 1 then .p1 else .p2)).length ∧
      (u.blk.pulse (if p = 1 then .p1 else .p2)).env.start = true

/-! One sample -/

/-- R350, R272: the seven steps of an output sample in their order: the frame countdown and tick, the
amplitudes of the block after it, two internal samples with those amplitudes, the filter, the quantiser,
and the saturated sum written to the element. A RENDER's samples follow one another. -/
def Obligations.OutputSampleFollowsItsSteps : Prop :=
  (∀ (i : Nat) (r : Rendering),
      let b1 := frameCountdown Config.defaults r.blk
      let a := amplitudes Config.defaults b1
      let b2 := internalSample Config.defaults a (internalSample Config.defaults a b1)
      let y := decimate Config.defaults b2.hb
      let q := quantiseValue Config.defaults y b2
      sampleValue Config.defaults r.blk = q ∧
        sampleState Config.defaults r.blk = quantiseState Config.defaults y b2 ∧
        (outputSample Config.defaults i r).blk = quantiseState Config.defaults y b2 ∧
        (outputSample Config.defaults i r).out = r.out.write i
          (BitVec.ofInt 16 (max (-32768) (min 32767 ((r.out.read i).toInt + q))))) ∧
    (∀ (n : Nat) (b : Block), afterSamples Config.defaults 0 b = b ∧
      afterSamples Config.defaults (n + 1) b =
        afterSamples Config.defaults n (sampleState Config.defaults b))

/-- R351: an internal sample pushes the mixer sum into the delay line and steps the two pulses, the
triangle and the noise once, whatever the amplitudes; the registers, timers, counters, envelopes, sweep
units, the sequencer, the DC estimate and the dither state stay. -/
def Obligations.InternalSampleStepsEveryOscillator : Prop :=
  ∀ (a : Amplitudes) (b : Block),
    let d1 := dutyOf Config.defaults b.regs[0x00]
    let d2 := dutyOf Config.defaults b.regs[0x04]
    let Δ1 := pulseDelta Config.defaults b.pulse1.timer
    let Δ2 := pulseDelta Config.defaults b.pulse2.timer
    let t := internalSample Config.defaults a b
    t = { b with
      pulse1 := { b.pulse1 with osc := pulseAdvance Config.defaults b.pulse1.osc d1 Δ1 }
      pulse2 := { b.pulse2 with osc := pulseAdvance Config.defaults b.pulse2.osc d2 Δ2 }
      tri := triAdvance Config.defaults b.tri
      noise := noiseClock Config.defaults b.regs[0x0E] b.noise
      hb := t.hb } ∧
    t.hb = pushSample b.hb
      (512 * (a.p1 * pulseValue Config.defaults b.pulse1.osc d1 Δ1 +
        a.p2 * pulseValue Config.defaults b.pulse2.osc d2 Δ2 + a.tri * triValue b.tri.phase +
        a.noise * (if b.noise.lfsr.getLsbD 0 then -1 else 1)))
end

