-- ==== Sys2Proof/Laws/State.lean ====
section
/-! SUPPORT. One lemma for each field and each update of the state, so that no proof unfolds a record
update. -/

namespace Sys2Proof.Machine

/-! Updates of the whole state -/

@[simp] theorem State.mapBlock_blk (s : State) (f : Block → Block) : (s.mapBlock f).blk = f s.blk := rfl
@[simp] theorem State.mapBlock_out (s : State) (f : Block → Block) : (s.mapBlock f).out = s.out := rfl
@[simp] theorem State.mapBlock_pending (s : State) (f : Block → Block) : (s.mapBlock f).pending = s.pending := rfl
@[simp] theorem State.mapBlock_returned (s : State) (f : Block → Block) : (s.mapBlock f).returned = s.returned := rfl
@[simp] theorem State.mapBlock_refusalMark (s : State) (f : Block → Block) : (s.mapBlock f).refusalMark = s.refusalMark := rfl

@[simp] theorem State.accept_blk (s : State) (call : Call) (rest : List Call) : (s.accept call rest).blk = s.blk := rfl
@[simp] theorem State.accept_out (s : State) (call : Call) (rest : List Call) : (s.accept call rest).out = call.out := rfl
@[simp] theorem State.accept_pending (s : State) (call : Call) (rest : List Call) : (s.accept call rest).pending = rest := rfl
@[simp] theorem State.accept_returned (s : State) (call : Call) (rest : List Call) : (s.accept call rest).returned = s.returned := rfl
@[simp] theorem State.accept_refusalMark (s : State) (call : Call) (rest : List Call) : (s.accept call rest).refusalMark = s.refusalMark := rfl

@[simp] theorem State.markRefused_blk (s : State) : (s.markRefused).blk = s.blk := rfl
@[simp] theorem State.markRefused_out (s : State) : (s.markRefused).out = s.out := rfl
@[simp] theorem State.markRefused_pending (s : State) : (s.markRefused).pending = s.pending := rfl
@[simp] theorem State.markRefused_returned (s : State) : (s.markRefused).returned = s.returned := rfl
@[simp] theorem State.markRefused_refusalMark (s : State) : (s.markRefused).refusalMark = true := rfl

@[simp] theorem State.issue_blk (s : State) (w : Word) : (s.issue w).blk = s.blk := rfl
@[simp] theorem State.issue_out (s : State) (w : Word) : (s.issue w).out = s.out := rfl
@[simp] theorem State.issue_pending (s : State) (w : Word) : (s.issue w).pending = ⟨w, Memory.zeros (lentSize w)⟩ :: s.pending := rfl
@[simp] theorem State.issue_returned (s : State) (w : Word) : (s.issue w).returned = s.returned := rfl
@[simp] theorem State.issue_refusalMark (s : State) (w : Word) : (s.issue w).refusalMark = s.refusalMark := rfl

@[simp] theorem State.withFetchWord_blk (s : State) (n w : Nat) : (s.withFetchWord n w).blk = s.blk := rfl
@[simp] theorem State.withFetchWord_out (s : State) (n w : Nat) : (s.withFetchWord n w).out = s.out := rfl
@[simp] theorem State.withFetchWord_pending (s : State) (n w : Nat) : (s.withFetchWord n w).pending = ⟨BitVec.ofNat 32 (w % 2 ^ n), Memory.zeros (lentSize (BitVec.ofNat 32 (w % 2 ^ n)))⟩ :: s.pending := rfl
@[simp] theorem State.withFetchWord_returned (s : State) (n w : Nat) : (s.withFetchWord n w).returned = s.returned := rfl
@[simp] theorem State.withFetchWord_refusalMark (s : State) (n w : Nat) : (s.withFetchWord n w).refusalMark = s.refusalMark := rfl

@[simp] theorem renderInto_blk (c : Config) (n : Nat) (s : State) : (renderInto c n s).blk = (renderFrom c 0 n ⟨s.blk, s.out⟩).blk := rfl
@[simp] theorem renderInto_out (c : Config) (n : Nat) (s : State) : (renderInto c n s).out = (renderFrom c 0 n ⟨s.blk, s.out⟩).out := rfl
@[simp] theorem renderInto_pending (c : Config) (n : Nat) (s : State) : (renderInto c n s).pending = s.pending := rfl
@[simp] theorem renderInto_returned (c : Config) (n : Nat) (s : State) : (renderInto c n s).returned = s.returned := rfl
@[simp] theorem renderInto_refusalMark (c : Config) (n : Nat) (s : State) : (renderInto c n s).refusalMark = s.refusalMark := rfl

theorem State.handBack_of_lends {i : Instr} (h : lendsBuffer i = true) (s : State) :
    s.handBack i = { s with returned := s.returned ++ [s.out] } := by
  simp [State.handBack, h]

theorem State.handBack_of_not_lends {i : Instr} (h : lendsBuffer i = false) (s : State) :
    s.handBack i = s := by
  simp [State.handBack, h]

@[simp] theorem State.handBack_blk (s : State) (i : Instr) : (s.handBack i).blk = s.blk := by
  unfold State.handBack; split <;> rfl
@[simp] theorem State.handBack_out (s : State) (i : Instr) : (s.handBack i).out = s.out := by
  unfold State.handBack; split <;> rfl
@[simp] theorem State.handBack_pending (s : State) (i : Instr) : (s.handBack i).pending = s.pending := by
  unfold State.handBack; split <;> rfl
@[simp] theorem State.handBack_refusalMark (s : State) (i : Instr) : (s.handBack i).refusalMark = s.refusalMark := by
  unfold State.handBack; split <;> rfl

/-! Updates of the block -/

@[simp] theorem Block.store_pulse1 (b : Block) (r d : Byte) : (b.store r d).pulse1 = b.pulse1 := by
  unfold Block.store; split <;> rfl
@[simp] theorem Block.store_pulse2 (b : Block) (r d : Byte) : (b.store r d).pulse2 = b.pulse2 := by
  unfold Block.store; split <;> rfl
@[simp] theorem Block.store_tri (b : Block) (r d : Byte) : (b.store r d).tri = b.tri := by
  unfold Block.store; split <;> rfl
@[simp] theorem Block.store_noise (b : Block) (r d : Byte) : (b.store r d).noise = b.noise := by
  unfold Block.store; split <;> rfl
@[simp] theorem Block.store_fs (b : Block) (r d : Byte) : (b.store r d).fs = b.fs := by
  unfold Block.store; split <;> rfl
@[simp] theorem Block.store_hb (b : Block) (r d : Byte) : (b.store r d).hb = b.hb := by
  unfold Block.store; split <;> rfl
@[simp] theorem Block.store_dc (b : Block) (r d : Byte) : (b.store r d).dc = b.dc := by
  unfold Block.store; split <;> rfl
@[simp] theorem Block.store_rng (b : Block) (r d : Byte) : (b.store r d).rng = b.rng := by
  unfold Block.store; split <;> rfl

@[simp] theorem Block.setPulse_regs (b : Block) (p : PulseIx) (x : Pulse) : (b.setPulse p x).regs = b.regs := by
  cases p <;> rfl
@[simp] theorem Block.setPulse_tri (b : Block) (p : PulseIx) (x : Pulse) : (b.setPulse p x).tri = b.tri := by
  cases p <;> rfl
@[simp] theorem Block.setPulse_noise (b : Block) (p : PulseIx) (x : Pulse) : (b.setPulse p x).noise = b.noise := by
  cases p <;> rfl
@[simp] theorem Block.setPulse_fs (b : Block) (p : PulseIx) (x : Pulse) : (b.setPulse p x).fs = b.fs := by
  cases p <;> rfl
@[simp] theorem Block.setPulse_hb (b : Block) (p : PulseIx) (x : Pulse) : (b.setPulse p x).hb = b.hb := by
  cases p <;> rfl
@[simp] theorem Block.setPulse_dc (b : Block) (p : PulseIx) (x : Pulse) : (b.setPulse p x).dc = b.dc := by
  cases p <;> rfl
@[simp] theorem Block.setPulse_rng (b : Block) (p : PulseIx) (x : Pulse) : (b.setPulse p x).rng = b.rng := by
  cases p <;> rfl

@[simp] theorem Block.setPulse_p1_pulse1 (b : Block) (x : Pulse) : (b.setPulse .p1 x).pulse1 = x := rfl
@[simp] theorem Block.setPulse_p1_pulse2 (b : Block) (x : Pulse) :
    (b.setPulse .p1 x).pulse2 = b.pulse2 := rfl
@[simp] theorem Block.setPulse_p2_pulse1 (b : Block) (x : Pulse) :
    (b.setPulse .p2 x).pulse1 = b.pulse1 := rfl
@[simp] theorem Block.setPulse_p2_pulse2 (b : Block) (x : Pulse) : (b.setPulse .p2 x).pulse2 = x := rfl
@[simp] theorem Block.pulse_p1 (b : Block) : b.pulse .p1 = b.pulse1 := rfl
@[simp] theorem Block.pulse_p2 (b : Block) : b.pulse .p2 = b.pulse2 := rfl

@[simp] theorem stepQuarter_regs (b : Block) : (stepQuarter b).regs = b.regs := rfl
@[simp] theorem stepQuarter_pulse1 (b : Block) : (stepQuarter b).pulse1 = clockPulseEnvelope b .p1 := rfl
@[simp] theorem stepQuarter_pulse2 (b : Block) : (stepQuarter b).pulse2 = clockPulseEnvelope b .p2 := rfl
@[simp] theorem stepQuarter_tri (b : Block) : (stepQuarter b).tri = b.tri := rfl
@[simp] theorem stepQuarter_noise (b : Block) : (stepQuarter b).noise = { b.noise with env := clockEnvelope b.noise.env b.noiseCtrl } := rfl
@[simp] theorem stepQuarter_fs (b : Block) : (stepQuarter b).fs = b.fs := rfl
@[simp] theorem stepQuarter_hb (b : Block) : (stepQuarter b).hb = b.hb := rfl
@[simp] theorem stepQuarter_dc (b : Block) : (stepQuarter b).dc = b.dc := rfl
@[simp] theorem stepQuarter_rng (b : Block) : (stepQuarter b).rng = b.rng := rfl

@[simp] theorem stepHalf_regs (b : Block) : (stepHalf b).regs = b.regs := rfl
@[simp] theorem stepHalf_pulse1 (b : Block) : (stepHalf b).pulse1 = clockPulseHalf b .p1 := rfl
@[simp] theorem stepHalf_pulse2 (b : Block) : (stepHalf b).pulse2 = clockPulseHalf b .p2 := rfl
@[simp] theorem stepHalf_tri (b : Block) : (stepHalf b).tri = { b.tri with length := clockLength b.tri.length (triHalt b.triCtrl) } := rfl
@[simp] theorem stepHalf_noise (b : Block) : (stepHalf b).noise = { b.noise with length := clockLength b.noise.length (loopHalt b.noiseCtrl) } := rfl
@[simp] theorem stepHalf_fs (b : Block) : (stepHalf b).fs = b.fs := rfl
@[simp] theorem stepHalf_hb (b : Block) : (stepHalf b).hb = b.hb := rfl
@[simp] theorem stepHalf_dc (b : Block) : (stepHalf b).dc = b.dc := rfl
@[simp] theorem stepHalf_rng (b : Block) : (stepHalf b).rng = b.rng := rfl

@[simp] theorem internalSample_regs (c : Config) (a : Amplitudes) (b : Block) : (internalSample c a b).regs = b.regs := rfl
@[simp] theorem internalSample_pulse1 (c : Config) (a : Amplitudes) (b : Block) : (internalSample c a b).pulse1 = advancePulse c b .p1 := rfl
@[simp] theorem internalSample_pulse2 (c : Config) (a : Amplitudes) (b : Block) : (internalSample c a b).pulse2 = advancePulse c b .p2 := rfl
@[simp] theorem internalSample_tri (c : Config) (a : Amplitudes) (b : Block) : (internalSample c a b).tri = triAdvance c b.tri := rfl
@[simp] theorem internalSample_noise (c : Config) (a : Amplitudes) (b : Block) : (internalSample c a b).noise = noiseClock c b.noiseModePeriod b.noise := rfl
@[simp] theorem internalSample_fs (c : Config) (a : Amplitudes) (b : Block) : (internalSample c a b).fs = b.fs := rfl
@[simp] theorem internalSample_hb (c : Config) (a : Amplitudes) (b : Block) : (internalSample c a b).hb = pushSample b.hb (mixSum c a b) := rfl
@[simp] theorem internalSample_dc (c : Config) (a : Amplitudes) (b : Block) : (internalSample c a b).dc = b.dc := rfl
@[simp] theorem internalSample_rng (c : Config) (a : Amplitudes) (b : Block) : (internalSample c a b).rng = b.rng := rfl

@[simp] theorem quantiseState_regs (c : Config) (y : ℚ) (b : Block) : (quantiseState c y b).regs = b.regs := rfl
@[simp] theorem quantiseState_pulse1 (c : Config) (y : ℚ) (b : Block) : (quantiseState c y b).pulse1 = b.pulse1 := rfl
@[simp] theorem quantiseState_pulse2 (c : Config) (y : ℚ) (b : Block) : (quantiseState c y b).pulse2 = b.pulse2 := rfl
@[simp] theorem quantiseState_tri (c : Config) (y : ℚ) (b : Block) : (quantiseState c y b).tri = b.tri := rfl
@[simp] theorem quantiseState_noise (c : Config) (y : ℚ) (b : Block) : (quantiseState c y b).noise = b.noise := rfl
@[simp] theorem quantiseState_fs (c : Config) (y : ℚ) (b : Block) : (quantiseState c y b).fs = b.fs := rfl
@[simp] theorem quantiseState_hb (c : Config) (y : ℚ) (b : Block) : (quantiseState c y b).hb = b.hb := rfl
@[simp] theorem quantiseState_dc (c : Config) (y : ℚ) (b : Block) : (quantiseState c y b).dc = dcTrack c y b.dc := rfl
@[simp] theorem quantiseState_rng (c : Config) (y : ℚ) (b : Block) : (quantiseState c y b).rng = xorshift64 c (xorshift64 c b.rng) := rfl

/-! What each stage of an output sample leaves alone -/

@[simp] theorem performStep_regs (a : FrameStep) (b : Block) : (performStep a b).regs = b.regs := by
  cases a <;> rfl
@[simp] theorem performStep_hb (a : FrameStep) (b : Block) : (performStep a b).hb = b.hb := by
  cases a <;> rfl
@[simp] theorem performStep_dc (a : FrameStep) (b : Block) : (performStep a b).dc = b.dc := by
  cases a <;> rfl
@[simp] theorem performStep_rng (a : FrameStep) (b : Block) : (performStep a b).rng = b.rng := by
  cases a <;> rfl
@[simp] theorem performStep_fs (a : FrameStep) (b : Block) : (performStep a b).fs = b.fs := by
  cases a <;> rfl
@[simp] theorem fsTick_regs (c : Config) (b : Block) : (fsTick c b).regs = b.regs := by
  simp [fsTick]
@[simp] theorem fsTick_hb (c : Config) (b : Block) : (fsTick c b).hb = b.hb := by
  simp [fsTick]
@[simp] theorem fsTick_dc (c : Config) (b : Block) : (fsTick c b).dc = b.dc := by
  simp [fsTick]
@[simp] theorem fsTick_rng (c : Config) (b : Block) : (fsTick c b).rng = b.rng := by
  simp [fsTick]
@[simp] theorem frameCountdown_regs (c : Config) (b : Block) : (frameCountdown c b).regs = b.regs := by
  unfold frameCountdown; split <;> simp
@[simp] theorem frameCountdown_hb (c : Config) (b : Block) : (frameCountdown c b).hb = b.hb := by
  unfold frameCountdown; split <;> simp
@[simp] theorem frameCountdown_dc (c : Config) (b : Block) : (frameCountdown c b).dc = b.dc := by
  unfold frameCountdown; split <;> simp
@[simp] theorem frameCountdown_rng (c : Config) (b : Block) : (frameCountdown c b).rng = b.rng := by
  unfold frameCountdown; split <;> simp
@[simp] theorem internalSamples_regs (c : Config) (a : Amplitudes) (n : Nat) (b : Block) :
    (internalSamples c a n b).regs = b.regs := by
  induction n generalizing b with
  | zero => rfl
  | succ n ih => simp [internalSamples, ih]
@[simp] theorem internalSamples_fs (c : Config) (a : Amplitudes) (n : Nat) (b : Block) :
    (internalSamples c a n b).fs = b.fs := by
  induction n generalizing b with
  | zero => rfl
  | succ n ih => simp [internalSamples, ih]
@[simp] theorem internalSamples_dc (c : Config) (a : Amplitudes) (n : Nat) (b : Block) :
    (internalSamples c a n b).dc = b.dc := by
  induction n generalizing b with
  | zero => rfl
  | succ n ih => simp [internalSamples, ih]
@[simp] theorem internalSamples_rng (c : Config) (a : Amplitudes) (n : Nat) (b : Block) :
    (internalSamples c a n b).rng = b.rng := by
  induction n generalizing b with
  | zero => rfl
  | succ n ih => simp [internalSamples, ih]
@[simp] theorem synthesise_regs (c : Config) (b : Block) : (synthesise c b).regs = b.regs := by
  simp [synthesise]
@[simp] theorem synthesise_dc (c : Config) (b : Block) : (synthesise c b).dc = b.dc := by
  simp [synthesise]
@[simp] theorem synthesise_rng (c : Config) (b : Block) : (synthesise c b).rng = b.rng := by
  simp [synthesise]
@[simp] theorem sampleState_regs (c : Config) (b : Block) : (sampleState c b).regs = b.regs := by
  simp [sampleState]
@[simp] theorem sampleState_rng (c : Config) (b : Block) :
    (sampleState c b).rng = xorshift64 c (xorshift64 c b.rng) := by
  simp [sampleState]
@[simp] theorem sampleState_fs (c : Config) (b : Block) :
    (sampleState c b).fs = (frameCountdown c b).fs := by
  simp [sampleState, synthesise]
@[simp] theorem afterSamples_regs (c : Config) (n : Nat) (b : Block) :
    (afterSamples c n b).regs = b.regs := by
  induction n generalizing b with
  | zero => rfl
  | succ n ih => simp [afterSamples, ih]

end Sys2Proof.Machine
end

