-- ==== Sys2Proof/Laws/Decode.lean ====
section
/-! SUPPORT. The fields of an encoded word, read back. -/

namespace Sys2Proof

/-- Appending bits below multiplies by their power of two. -/
theorem toNat_append_add {m n : Nat} (x : BitVec m) (y : BitVec n) :
    (x ++ y).toNat = x.toNat * 2 ^ n + y.toNat := by
  rw [BitVec.toNat_append, ← Nat.shiftLeft_add_eq_or_of_lt y.isLt, Nat.shiftLeft_eq]

theorem writeWord_toNat (r d : Byte) : (writeWord r d).toNat = r.toNat * 256 + d.toNat := by
  have h : (writeWord r d).toNat = (0b00#2 ++ 0#14 ++ r ++ d : BitVec (2 + 14 + 8 + 8)).toNat := rfl
  rw [h, toNat_append_add, toNat_append_add]
  simp

theorem renderWord_toNat (n : BitVec 30) : (renderWord n).toNat = 2 ^ 30 + n.toNat := by
  have h : (renderWord n).toNat = (0b01#2 ++ n : BitVec (2 + 30)).toNat := rfl
  rw [h, toNat_append_add]
  simp

/-! Fields as numbers -/

theorem wordKind_toNat (w : Word) : (wordKind w).toNat = w.toNat / 2 ^ 30 := by
  have := w.isLt
  simp only [wordKind, BitVec.extractLsb'_toNat, Nat.shiftRight_eq_div_pow]
  omega

theorem wordWriteZero_toNat (w : Word) :
    (wordWriteZero w).toNat = w.toNat / 2 ^ 16 % 2 ^ 14 := by
  simp [wordWriteZero, BitVec.extractLsb'_toNat, Nat.shiftRight_eq_div_pow]

theorem wordReg_toNat (w : Word) : (wordReg w).toNat = w.toNat / 2 ^ 8 % 2 ^ 8 := by
  simp [wordReg, BitVec.extractLsb'_toNat, Nat.shiftRight_eq_div_pow]

theorem wordData_toNat (w : Word) : (wordData w).toNat = w.toNat % 2 ^ 8 := by
  simp [wordData, BitVec.extractLsb'_toNat]

theorem wordCount_toNat (w : Word) : (wordCount w).toNat = w.toNat % 2 ^ 30 := by
  simp [wordCount, BitVec.extractLsb'_toNat]

/-! Fields of encoded words -/

@[simp] theorem wordKind_writeWord (r d : Byte) : wordKind (writeWord r d) = 0b00#2 := by
  have hr := r.isLt
  have hd := d.isLt
  apply BitVec.eq_of_toNat_eq
  rw [wordKind_toNat, writeWord_toNat]
  simp
  omega

@[simp] theorem wordWriteZero_writeWord (r d : Byte) : wordWriteZero (writeWord r d) = 0#14 := by
  have hr := r.isLt
  have hd := d.isLt
  apply BitVec.eq_of_toNat_eq
  rw [wordWriteZero_toNat, writeWord_toNat]
  simp
  omega

@[simp] theorem wordReg_writeWord (r d : Byte) : wordReg (writeWord r d) = r := by
  have hr := r.isLt
  have hd := d.isLt
  apply BitVec.eq_of_toNat_eq
  rw [wordReg_toNat, writeWord_toNat]
  omega

@[simp] theorem wordData_writeWord (r d : Byte) : wordData (writeWord r d) = d := by
  have hd := d.isLt
  apply BitVec.eq_of_toNat_eq
  rw [wordData_toNat, writeWord_toNat]
  omega

@[simp] theorem wordKind_renderWord (n : BitVec 30) : wordKind (renderWord n) = 0b01#2 := by
  have hn := n.isLt
  apply BitVec.eq_of_toNat_eq
  rw [wordKind_toNat, renderWord_toNat]
  simp
  omega

@[simp] theorem wordCount_renderWord (n : BitVec 30) : wordCount (renderWord n) = n := by
  have hn := n.isLt
  apply BitVec.eq_of_toNat_eq
  rw [wordCount_toNat, renderWord_toNat]
  omega

/-- A legal WRITE word decodes to the row of its register (spec/30_encoding.md R131, R135). -/
theorem decode_writeWord (r d : Byte) : decode (writeWord r d) = .ok (decodeWrite r d) := by
  simp [decode]

/-- A RENDER word decodes to its count (R132). -/
theorem decode_renderWord (n : BitVec 30) : decode (renderWord n) = .ok (.render n.toNat) := by
  simp [decode]

/-- The SILENCE word (R133). -/
theorem decode_silenceWord : decode silenceWord = .ok .silence := by decide

theorem wordKind_cases (w : Word) :
    wordKind w = 0b00#2 ∨ wordKind w = 0b01#2 ∨ wordKind w = 0b10#2 ∨ wordKind w = 0b11#2 := by
  generalize wordKind w = k
  revert k
  decide

/-- A word is the WRITE word of its own fields when its upper half is zero. -/
theorem writeWord_fields {w : Word} (hk : wordKind w = 0b00#2) (hz : wordWriteZero w = 0) :
    writeWord (wordReg w) (wordData w) = w := by
  have h1 := congrArg BitVec.toNat hk
  have h2 := congrArg BitVec.toNat hz
  rw [wordKind_toNat] at h1
  rw [wordWriteZero_toNat] at h2
  simp at h1 h2
  apply BitVec.eq_of_toNat_eq
  rw [writeWord_toNat, wordReg_toNat, wordData_toNat]
  omega

/-- A word of kind RENDER is the RENDER word of its count. -/
theorem renderWord_count {w : Word} (hk : wordKind w = 0b01#2) : renderWord (wordCount w) = w := by
  have h1 := congrArg BitVec.toNat hk
  rw [wordKind_toNat] at h1
  simp at h1
  apply BitVec.eq_of_toNat_eq
  rw [renderWord_toNat, wordCount_toNat]
  omega

/-- A WRITE to a number beyond the register file is one of the ignored rows (R135). -/
theorem decodeWrite_ignored {r : Byte} (d : Byte) (h : 0x18 ≤ r.toNat) :
    decodeWrite r d = decodeIgnored r d := by
  unfold decodeWrite
  split <;> first | rfl | omega

/-- The command of any register and data is well-formed, and its word is theirs. -/
theorem decodeWrite_wf_encode (r d : Byte) :
    (decodeWrite r d).wf = true ∧ encode (decodeWrite r d) = writeWord r d := by
  by_cases h : 0x18 ≤ r.toNat
  · rw [decodeWrite_ignored d h]
    unfold decodeIgnored
    split
    · simp [Instr.wf, encode]; omega
    · split
      · simp [Instr.wf, encode]; omega
      · split <;> (simp [Instr.wf, encode]; omega)
  · unfold decodeWrite
    have hr : r = BitVec.ofNat 8 r.toNat := by simp
    split <;> rename_i hk <;> first
      | (rw [hk] at hr; rw [hr]; exact ⟨rfl, rfl⟩)
      | (exfalso; interval_cases hh : r.toNat <;> simp_all)

end Sys2Proof
end

