-- ==== Sys2Proof/Laws/Memory.lean ====
section
/-! SUPPORT. The output buffer: reading after writing, and the canonical form through every
operation. -/

namespace Sys2Proof.Machine

/-! Cells -/

theorem cellsWf_mono {size lo lo' : Nat} (hle : lo ≤ lo') :
    ∀ {l : List (Nat × Sample)}, cellsWf size lo' l = true → cellsWf size lo l = true
  | [], _ => rfl
  | (j, v) :: rest, h => by
    simp only [cellsWf, Bool.and_eq_true, decide_eq_true_eq] at h ⊢
    exact ⟨⟨⟨by omega, h.1.1.2⟩, h.1.2⟩, h.2⟩

theorem cellsRead_below {size lo i : Nat} (hi : i < lo) :
    ∀ {l : List (Nat × Sample)}, cellsWf size lo l = true → cellsRead l i = 0#16
  | [], _ => rfl
  | (j, v) :: rest, h => by
    simp only [cellsWf, Bool.and_eq_true, decide_eq_true_eq] at h
    rw [cellsRead, if_neg (by omega)]
    exact cellsRead_below (by omega) h.2

theorem cellsRead_outside {size i : Nat} (hi : size ≤ i) :
    ∀ {lo : Nat} {l : List (Nat × Sample)}, cellsWf size lo l = true → cellsRead l i = 0#16
  | _, [], _ => rfl
  | lo, (j, v) :: rest, h => by
    simp only [cellsWf, Bool.and_eq_true, decide_eq_true_eq] at h
    rw [cellsRead, if_neg (by omega)]
    exact cellsRead_outside hi h.2

theorem cellsWrite_wf {size i : Nat} (v : Sample) (hi : i < size) :
    ∀ {lo : Nat} {l : List (Nat × Sample)}, lo ≤ i → cellsWf size lo l = true →
      cellsWf size lo (cellsWrite l i v) = true
  | lo, [], hlo, _ => by
    by_cases hv : v = 0#16 <;> simp [cellsWrite, cellsWf, hv, hi, hlo]
  | lo, (j, u) :: rest, hlo, h => by
    have h' := h
    simp only [cellsWf, Bool.and_eq_true, decide_eq_true_eq] at h'
    obtain ⟨⟨⟨h1, h2⟩, h3⟩, h4⟩ := h'
    rw [cellsWrite]
    by_cases hij : i < j
    · by_cases hv : v = 0#16
      · simpa [hij, hv] using h
      · have : i + 1 ≤ j := hij
        simp [hij, hv, cellsWf, hlo, hi, this, h2, h3, h4]
    · by_cases he : i = j
      · subst he
        by_cases hv : v = 0#16
        · simpa [hv] using cellsWf_mono (by omega) h4
        · simp [hv, cellsWf, hlo, hi, h4]
      · have hrec := cellsWrite_wf v hi (by omega : j + 1 ≤ i) h4
        simp [hij, he, cellsWf, h1, h2, h3, hrec]

theorem cellsRead_write {size : Nat} (i k : Nat) (v : Sample) :
    ∀ {lo : Nat} {l : List (Nat × Sample)}, cellsWf size lo l = true →
      cellsRead (cellsWrite l i v) k = if k = i then v else cellsRead l k
  | lo, [], _ => by
    by_cases hv : v = 0#16
    · simp [cellsWrite, cellsRead, hv]
    · by_cases hk : k = i
      · simp [cellsWrite, cellsRead, hv, hk]
      · have hne : i ≠ k := fun e => hk e.symm
        simp [cellsWrite, cellsRead, hv, hk, hne]
  | lo, (j, u) :: rest, h => by
    have h' := h
    simp only [cellsWf, Bool.and_eq_true, decide_eq_true_eq] at h'
    obtain ⟨⟨⟨h1, h2⟩, h3⟩, h4⟩ := h'
    rw [cellsWrite]
    by_cases hij : i < j
    · have hz : cellsRead rest i = 0#16 := cellsRead_below (by omega) h4
      by_cases hv : v = 0#16
      · by_cases hk : k = i
        · subst hk
          have hne : j ≠ k := by omega
          simp [hij, hv, cellsRead, hz, hne]
        · simp [hij, hv, hk]
      · by_cases hk : k = i
        · subst hk; simp [hij, hv, cellsRead]
        · have hne : i ≠ k := fun e => hk e.symm
          simp [hij, hv, cellsRead, hk, hne]
    · by_cases he : i = j
      · subst he
        have hz : cellsRead rest i = 0#16 := cellsRead_below (by omega) h4
        by_cases hv : v = 0#16
        · by_cases hk : k = i
          · subst hk; simp [hv, hz]
          · have hne : i ≠ k := fun e => hk e.symm
            simp [hv, hk, cellsRead, hne]
        · by_cases hk : k = i
          · subst hk; simp [hv, cellsRead]
          · have hne : i ≠ k := fun e => hk e.symm
            simp [hv, hk, cellsRead, hne]
      · have hrec := cellsRead_write i k v h4
        by_cases hk : k = i
        · subst hk
          have hne : j ≠ k := fun e => he e.symm
          simp [hij, he, cellsRead, hne, hrec]
        · by_cases hjk : j = k
          · subst hjk; simp [hij, he, cellsRead, hk]
          · simp [hij, he, cellsRead, hjk, hrec, hk]

/-! Buffers -/

@[simp] theorem Memory.write_size (m : Memory) (i : Nat) (v : Sample) : (m.write i v).size = m.size :=
  rfl

@[simp] theorem Memory.accumulate_size (m : Memory) (i : Nat) (q : ℤ) :
    (m.accumulate i q).size = m.size := rfl

@[simp] theorem Memory.zeros_wf (n : Nat) : (Memory.zeros n).wf = true := rfl

@[simp] theorem Memory.zeros_read (n i : Nat) : (Memory.zeros n).read i = 0#16 := rfl

@[simp] theorem Memory.zeros_size (n : Nat) : (Memory.zeros n).size = n := rfl

theorem Memory.write_wf {m : Memory} {i : Nat} (h : m.wf = true) (hi : i < m.size) (v : Sample) :
    (m.write i v).wf = true :=
  cellsWrite_wf v hi (Nat.zero_le i) h

theorem Memory.accumulate_wf {m : Memory} {i : Nat} (h : m.wf = true) (hi : i < m.size) (q : ℤ) :
    (m.accumulate i q).wf = true :=
  Memory.write_wf h hi _

theorem Memory.read_write {m : Memory} (h : m.wf = true) (i k : Nat) (v : Sample) :
    (m.write i v).read k = if k = i then v else m.read k :=
  cellsRead_write i k v h

theorem Memory.read_outside {m : Memory} (h : m.wf = true) {i : Nat} (hi : m.size ≤ i) :
    m.read i = 0#16 :=
  cellsRead_outside hi h

theorem sat16_bounds (x : ℤ) : -32768 ≤ sat16 x ∧ sat16 x ≤ 32767 := by
  unfold sat16; omega

theorem toInt_ofInt_sat16 (x : ℤ) : (BitVec.ofInt 16 (sat16 x)).toInt = sat16 x := by
  have := sat16_bounds x
  rw [BitVec.toInt_ofInt, Int.bmod_def]
  omega

theorem Memory.read_accumulate {m : Memory} (h : m.wf = true) (i k : Nat) (q : ℤ) :
    ((m.accumulate i q).read k).toInt =
      if k = i then sat16 ((m.read i).toInt + q) else (m.read k).toInt := by
  rw [Memory.accumulate, Memory.read_write h]
  split
  · exact toInt_ofInt_sat16 _
  · rfl

end Sys2Proof.Machine
end

