-- ==== Sys2Proof/Laws/Oscillators.lean ====
section
/-! SUPPORT. The oscillators: one lemma for each operation, saying all it can do. -/

namespace Sys2Proof.Machine

/-! Fractional parts -/

theorem frac_eq_fract (x : ℚ) : frac x = Int.fract x := rfl

theorem frac_nonneg (x : ℚ) : 0 ≤ frac x := Int.fract_nonneg x

theorem frac_lt_one (x : ℚ) : frac x < 1 := Int.fract_lt_one x

theorem frac_of_mem {x : ℚ} (h0 : 0 ≤ x) (h1 : x < 1) : frac x = x :=
  Int.fract_eq_self.mpr ⟨h0, h1⟩

/-! Band-limited pulse with the box kernel (spec/42_oscillators.md R290) -/

@[simp] theorem pulseAdvance_phase (c : Config) (o : PulseOsc) (d Δ : ℚ) :
    (pulseAdvance c o d Δ).phase = frac (o.phase + Δ) := rfl

@[simp] theorem pulseAdvance_dutyPrev (c : Config) (o : PulseOsc) (d Δ : ℚ) :
    (pulseAdvance c o d Δ).dutyPrev = d := rfl

/-- How much an edge lowers the next ring entry under the box kernel. -/
def Edge.lag (e : Edge) : ℚ := e.height * e.time

theorem addResidual_box {e : Edge} (h0 : 0 ≤ e.time) (h1 : e.time ≤ 1) (a b : ℚ) :
    addResidual Config.defaults [a, b] e = [a - e.lag, b] := by
  have hB : Config.defaults.stepResponse = Config.boxStep := rfl
  have e1 : Config.boxStep (((0 : ℕ) : ℚ) + 1 - e.time) = 1 - e.time := by
    unfold Config.boxStep
    rw [max_eq_left (by push_cast; linarith), min_eq_left (by push_cast; linarith)]
    push_cast; ring
  have e2 : Config.boxStep (((1 : ℕ) : ℚ) + 1 - e.time) = 1 := by
    unfold Config.boxStep
    rw [max_eq_left (by push_cast; linarith), min_eq_right (by push_cast; linarith)]
  simp only [addResidual, hB, Edge.lag, List.zipIdx_cons, List.zipIdx_nil, List.map_cons,
    List.map_nil, Nat.zero_add, e1, e2]
  congr 1
  · ring
  · congr 1; ring

theorem foldl_addResidual_box :
    ∀ (es : List Edge), (∀ e ∈ es, 0 ≤ e.time ∧ e.time ≤ 1) → ∀ a b : ℚ,
      es.foldl (addResidual Config.defaults) [a, b] = [a - (es.map Edge.lag).sum, b]
  | [], _, a, b => by simp
  | e :: es, h, a, b => by
    have he := h e (by simp)
    rw [List.foldl_cons, addResidual_box he.1 he.2,
      foldl_addResidual_box es (fun e' h' => h e' (by simp [h']))]
    simp only [List.map_cons, List.sum_cons]
    congr 1; ring

theorem dutyEdge_time {o : PulseOsc} {d : ℚ} {e : Edge} (h : e ∈ dutyEdge o d) : e.time = 0 := by
  unfold dutyEdge at h
  split at h
  · simp at h
  · dsimp only at h
    split at h
    · simp at h
    · simp only [List.mem_singleton] at h
      rw [h]

theorem phaseEdges_time {φ Δ d : ℚ} (hΔ : 0 < Δ) {e : Edge} (h : e ∈ phaseEdges φ Δ d) :
    0 ≤ e.time ∧ e.time ≤ 1 := by
  simp only [phaseEdges, List.mem_map, List.mem_filter, Bool.and_eq_true, decide_eq_true_eq] at h
  obtain ⟨x, ⟨-, h1, h2⟩, rfl⟩ := h
  simp only [edgeAt]
  exact ⟨div_nonneg (by linarith) hΔ.le, (div_le_one hΔ).mpr (by linarith)⟩

/-- The ring after one internal sample's edges, from an empty ring: only the next entry holds a
residual (spec/42_oscillators.md R290, R292). A duty edge adds none. -/
theorem ringAfterEdges_box {o : PulseOsc} (hr : o.ring = [0, 0]) (d : ℚ) {Δ : ℚ} (hΔ : 0 < Δ) :
    ringAfterEdges Config.defaults o d Δ =
      [-((phaseEdges o.phase Δ d).map Edge.lag).sum, 0] := by
  have hd : ((dutyEdge o d).map Edge.lag).sum = 0 := by
    apply List.sum_eq_zero
    intro x hx
    obtain ⟨e, he, rfl⟩ := List.mem_map.mp hx
    simp [Edge.lag, dutyEdge_time he]
  rw [ringAfterEdges, hr, foldl_addResidual_box]
  · simp [hd]
  · intro e he
    rcases List.mem_append.mp he with he | he
    · simp [dutyEdge_time he]
    · exact phaseEdges_time hΔ he

theorem pulseAdvance_ring {o : PulseOsc} (hr : o.ring = [0, 0]) (d : ℚ) {Δ : ℚ} (hΔ : 0 < Δ) :
    (pulseAdvance Config.defaults o d Δ).ring = [0, 0] := by
  simp [pulseAdvance, ringAfterEdges_box hr d hΔ]

theorem pulseValue_box {o : PulseOsc} (hr : o.ring = [0, 0]) (d : ℚ) {Δ : ℚ} (hΔ : 0 < Δ) :
    pulseValue Config.defaults o d Δ =
      level (frac (o.phase + Δ)) d - ((phaseEdges o.phase Δ d).map Edge.lag).sum := by
  simp [pulseValue, ringAfterEdges_box hr d hΔ, sub_eq_add_neg]

/-- The duty a register selects is in the duty table (R293). -/
theorem dutyOf_mem (c : Config) (r0 : Byte) : dutyOf c r0 ∈ c.dutyTable.toList := by
  simp [dutyOf]

theorem fInt_defaults : Config.defaults.fInt = 88200 := by decide

theorem pulseDelta_pos (t : Timer) : 0 < pulseDelta Config.defaults t := by
  have h : (Config.defaults.apuClock : ℚ) = 1789773 := rfl
  rw [pulseDelta, pulseFreq, fInt_defaults, h]
  positivity

/-! Triangle (spec/42_oscillators.md R310 to R312) -/

theorem triDelta_zero (c : Config) : triDelta c 0 = 0 := by simp [triDelta]

theorem triValue_bounds {ψ : ℚ} (h0 : 0 ≤ ψ) (h1 : ψ < 1) : -1 ≤ triValue ψ ∧ triValue ψ ≤ 1 := by
  unfold triValue
  split <;> constructor <;> linarith

@[simp] theorem triAdvance_timer (c : Config) (t : Triangle) : (triAdvance c t).timer = t.timer := rfl
@[simp] theorem triAdvance_length (c : Config) (t : Triangle) : (triAdvance c t).length = t.length := rfl
@[simp] theorem triAdvance_phase (c : Config) (t : Triangle) :
    (triAdvance c t).phase = frac (t.phase + triDelta c t.timer) := rfl

/-! Noise (spec/42_oscillators.md R320 to R322) -/

/-- All that the reload loop can do: it steps the register and adds the period the same number of
times. -/
theorem noiseReload_eq (c : Config) (mode : Bool) (period : ℚ) (fuel : Nat) (n : Noise) :
    ∃ k ≤ fuel, noiseReload c mode period fuel n =
        { n with lfsr := (lfsrStep c mode)^[k] n.lfsr, count := n.count + k * period } ∧
      (∀ j < k, n.count + j * period ≤ 0) ∧ (k < fuel → 0 < n.count + k * period) := by
  induction fuel generalizing n with
  | zero => exact ⟨0, le_rfl, by simp [noiseReload], by simp, by simp⟩
  | succ fuel ih =>
    rw [noiseReload]
    split
    · rename_i hc
      obtain ⟨k, hk, he, hj, hp⟩ := ih { n with lfsr := lfsrStep c mode n.lfsr, count := n.count + period }
      refine ⟨k + 1, by omega, ?_, ?_, ?_⟩
      · rw [he, Function.iterate_succ_apply]
        simp only [Nat.cast_add, Nat.cast_one]
        congr 1; ring
      · intro j hjk
        rcases j with _ | j
        · simpa using hc
        · have := hj j (by omega)
          push_cast
          simp only at this
          linarith
      · intro hlt
        have := hp (by omega)
        simp only at this
        push_cast
        linarith
    · rename_i hc
      exact ⟨0, by omega, by simp, by simp, fun _ => by simpa using hc⟩

/-- The passes that `noiseClock` allows are enough for a positive period (log entry 11). -/
theorem reloadPasses_enough {period count : ℚ} (hp : 0 < period) :
    0 < count + reloadPasses period count * period := by
  have h1 : -count / period < (reloadPasses period count : ℚ) := by
    unfold reloadPasses
    have h := Int.lt_floor_add_one (-count / period)
    have h2 : (⌊-count / period⌋ + 1 : ℤ) ≤ ((⌊-count / period⌋ + 1).toNat : ℤ) := Int.self_le_toNat _
    calc -count / period < ((⌊-count / period⌋ + 1 : ℤ) : ℚ) := by push_cast; exact h
      _ ≤ (((⌊-count / period⌋ + 1).toNat : ℤ) : ℚ) := by exact_mod_cast h2
      _ = _ := by norm_cast
  have := (div_lt_iff₀ hp).mp h1
  linarith

@[simp] theorem noiseClock_length (c : Config) (r2 : Byte) (n : Noise) :
    (noiseClock c r2 n).length = n.length := by
  obtain ⟨k, -, h, -, -⟩ := noiseReload_eq c (noiseMode r2) (noisePeriod c r2)
    (reloadPasses (noisePeriod c r2) (n.count - 1)) { n with count := n.count - 1 }
  rw [noiseClock, h]

@[simp] theorem noiseClock_env (c : Config) (r2 : Byte) (n : Noise) :
    (noiseClock c r2 n).env = n.env := by
  obtain ⟨k, -, h, -, -⟩ := noiseReload_eq c (noiseMode r2) (noisePeriod c r2)
    (reloadPasses (noisePeriod c r2) (n.count - 1)) { n with count := n.count - 1 }
  rw [noiseClock, h]

/-- The default noise periods are 4 or more (R321). -/
theorem noisePeriod_defaults (r2 : Byte) : 4 ≤ noisePeriod Config.defaults r2 := by
  have h : ∀ i : BitVec 4, 4 ≤ noiseTableEntry Config.defaults i := by decide
  have hs : Config.defaults.noisePeriodScale = 1 := rfl
  rw [noisePeriod, hs, mul_one]
  exact_mod_cast h _

theorem noiseValue_bounds (n : Noise) : -1 ≤ noiseValue n ∧ noiseValue n ≤ 1 := by
  unfold noiseValue
  split <;> norm_num

end Sys2Proof.Machine
end

