-- ==== Sys2Proof/Laws/Sequencer.lean ====
section
/-! SUPPORT. The sequencer's units: the cases of each clock, and what a frame tick leaves alone. -/

namespace Sys2Proof.Machine

/-! Envelope (spec/41_apu_sequencer.md R245) -/

theorem clockEnvelope_of_start {e : Envelope} (h : e.start = true) (r0 : Byte) :
    clockEnvelope e r0 = ⟨false, volume r0, 15⟩ := by
  simp [clockEnvelope, h]

theorem clockEnvelope_of_underflow {e : Envelope} (hs : e.start = false) (hd : e.divider = 0)
    (r0 : Byte) : clockEnvelope e r0 = ⟨false, volume r0,
      if e.decay = 0 then (if loopHalt r0 then 15 else 0) else e.decay - 1⟩ := by
  simp [clockEnvelope, hs, hd]

theorem clockEnvelope_of_count {e : Envelope} (hs : e.start = false) (hd : e.divider ≠ 0)
    (r0 : Byte) : clockEnvelope e r0 = ⟨false, e.divider - 1, e.decay⟩ := by
  rw [clockEnvelope, if_neg (by simp [hs]), if_neg hd, ← hs]

/-! Sweep (R260 to R262) -/

@[simp] theorem clockSweep_length (p : PulseIx) (r1 : Byte) (x : Pulse) :
    (clockSweep p r1 x).length = x.length := by
  unfold clockSweep clockSweepDivider clockSweepTimer; split <;> split <;> rfl

@[simp] theorem clockSweep_env (p : PulseIx) (r1 : Byte) (x : Pulse) :
    (clockSweep p r1 x).env = x.env := by
  unfold clockSweep clockSweepDivider clockSweepTimer; split <;> split <;> rfl

@[simp] theorem clockSweep_osc (p : PulseIx) (r1 : Byte) (x : Pulse) :
    (clockSweep p r1 x).osc = x.osc := by
  unfold clockSweep clockSweepDivider clockSweepTimer; split <;> split <;> rfl

theorem clockSweep_timer (p : PulseIx) (r1 : Byte) (x : Pulse) :
    (clockSweep p r1 x).timer =
      if sweepUpdates p r1 x then BitVec.ofInt 11 (sweepTarget p r1 x.timer) else x.timer := by
  unfold clockSweep clockSweepDivider clockSweepTimer; split <;> split <;> rfl

theorem clockSweep_sweep (p : PulseIx) (r1 : Byte) (x : Pulse) :
    (clockSweep p r1 x).sweep =
      if x.sweep.divider = 0 ∨ x.sweep.reload = true then ⟨sweepPeriod r1, false⟩
      else ⟨x.sweep.divider - 1, x.sweep.reload⟩ := by
  have h : (clockSweepTimer p r1 x).sweep = x.sweep := by unfold clockSweepTimer; split <;> rfl
  unfold clockSweep clockSweepDivider
  rw [h]; split <;> rfl

/-! What a step of the sequence leaves alone (R234 to R236) -/

@[simp] theorem performStep_osc1 (a : FrameStep) (b : Block) :
    (performStep a b).pulse1.osc = b.pulse1.osc := by
  cases a <;> simp [performStep, clockPulseEnvelope, clockPulseHalf]

@[simp] theorem performStep_osc2 (a : FrameStep) (b : Block) :
    (performStep a b).pulse2.osc = b.pulse2.osc := by
  cases a <;> simp [performStep, clockPulseEnvelope, clockPulseHalf]

@[simp] theorem performStep_tri_phase (a : FrameStep) (b : Block) :
    (performStep a b).tri.phase = b.tri.phase := by cases a <;> rfl

@[simp] theorem performStep_tri_timer (a : FrameStep) (b : Block) :
    (performStep a b).tri.timer = b.tri.timer := by cases a <;> rfl

@[simp] theorem performStep_lfsr (a : FrameStep) (b : Block) :
    (performStep a b).noise.lfsr = b.noise.lfsr := by cases a <;> rfl

@[simp] theorem performStep_count (a : FrameStep) (b : Block) :
    (performStep a b).noise.count = b.noise.count := by cases a <;> rfl

/-! Ticks and the countdown (R230, R231) -/

/-- The table depends on the register file alone. -/
theorem stepTable_congr {a b : Block} (h : a.regs = b.regs) (c : Config) :
    stepTable c a = stepTable c b := by
  unfold stepTable Block.frameMode
  rw [h]

theorem stepTable_length_pos (b : Block) : 0 < (stepTable Config.defaults b).length := by
  unfold stepTable; split <;> decide

/-- Within the table the action is the table's entry. -/
theorem stepAction_of_lt {table : List FrameStep} {k : Nat} (h : k < table.length) :
    stepAction table k = table[k] := by
  simp [stepAction, h]

@[simp] theorem fsTick_fs (c : Config) (b : Block) :
    (fsTick c b).fs = ⟨(b.fs.step + 1) % (stepTable c b).length, b.fs.countdown⟩ := by
  simp [fsTick]

/-- A sample whose countdown does not end. -/
theorem frameCountdown_of_gt {b : Block} (h : 1 < b.fs.countdown) (c : Config) :
    frameCountdown c b = { b with fs := ⟨b.fs.step, b.fs.countdown - 1⟩ } := by
  rw [frameCountdown, if_neg (by omega)]

/-- A sample whose countdown ends. -/
theorem frameCountdown_of_le {b : Block} (h : b.fs.countdown ≤ 1) (c : Config) :
    frameCountdown c b = fsTick c { b with fs := ⟨b.fs.step, c.fsPeriod⟩ } := by
  rw [frameCountdown, if_pos (by omega)]

@[simp] theorem frameCountdown_osc1 (c : Config) (b : Block) :
    (frameCountdown c b).pulse1.osc = b.pulse1.osc := by
  unfold frameCountdown; split <;> simp [fsTick]

@[simp] theorem frameCountdown_osc2 (c : Config) (b : Block) :
    (frameCountdown c b).pulse2.osc = b.pulse2.osc := by
  unfold frameCountdown; split <;> simp [fsTick]

@[simp] theorem frameCountdown_tri_phase (c : Config) (b : Block) :
    (frameCountdown c b).tri.phase = b.tri.phase := by
  unfold frameCountdown; split <;> simp [fsTick]

@[simp] theorem frameCountdown_lfsr (c : Config) (b : Block) :
    (frameCountdown c b).noise.lfsr = b.noise.lfsr := by
  unfold frameCountdown; split <;> simp [fsTick]

@[simp] theorem frameCountdown_count (c : Config) (b : Block) :
    (frameCountdown c b).noise.count = b.noise.count := by
  unfold frameCountdown; split <;> simp [fsTick]

end Sys2Proof.Machine
end

