-- ==== Sys2Proof/Laws/Mixer.lean ====
section
/-! SUPPORT. The mixer, the filter and the quantiser, and the default parameters' conditions. -/

namespace Sys2Proof

/-- The box step's ends (spec/42_oscillators.md R290). -/
theorem Config.boxStep_low {t : ℚ} (h : t ≤ 0) : Config.boxStep t = 0 := by
  rw [Config.boxStep, max_eq_right h, min_eq_left (by norm_num)]

theorem Config.boxStep_high {t : ℚ} (h : 1 ≤ t) : Config.boxStep t = 1 := by
  rw [Config.boxStep, max_eq_left (by linarith), min_eq_right h]

/-- The defaults of R7 meet the rules' conditions on parameters. -/
theorem Config.defaults_wf : Config.defaults.Wf where
  fOut_pos := by decide
  oversample_pos := by decide
  fsPeriod_pos := by decide
  apuClock_pos := by decide +kernel
  duty_pos := by decide +kernel
  duty_lt_one := by decide +kernel
  noiseNtsc_pos := by decide
  noisePal_pos := by decide
  noisePeriodScale_pos := by decide +kernel
  lfsrSeed_ne := by decide
  stepTable4_length := rfl
  stepTable5_length := rfl
  hb_symmetric := by decide +kernel
  hb_unity := by decide +kernel
  hb_centre := by decide +kernel
  hb_zeros := by decide +kernel
  step_low := fun _ h => Config.boxStep_low h
  step_high := fun _ h => Config.boxStep_high (by exact_mod_cast h)
  ditherSeed_ne := by decide

namespace Machine

/-! Amplitudes (spec/41_apu_sequencer.md R271) -/

theorem amplitudePulse_le (b : Block) (p : PulseIx) : amplitudePulse b p ≤ 15 := by
  unfold amplitudePulse
  split
  · have := (effectiveVolume (b.pulse p).env (b.pulseCtrl p)).isLt
    omega
  · omega

theorem amplitudeNoise_le (b : Block) : amplitudeNoise b ≤ 15 := by
  unfold amplitudeNoise
  split
  · have := (effectiveVolume b.noise.env b.noiseCtrl).isLt
    omega
  · omega

theorem amplitudeTri_le (b : Block) : amplitudeTri Config.defaults b ≤ 15 := by
  unfold amplitudeTri
  split
  · exact le_of_eq rfl
  · omega

/-! Dither and quantiser (spec/43_mixer.md R363 to R366) -/

theorem uniformDraw_bounds (x : BitVec 64) : 0 ≤ uniformDraw x ∧ uniformDraw x < 1 := by
  have h : (x >>> 11).toNat < 2 ^ 53 := by
    have := x.isLt
    rw [BitVec.toNat_ushiftRight, Nat.shiftRight_eq_div_pow]
    omega
  unfold uniformDraw
  constructor
  · positivity
  · rw [div_lt_one (by positivity)]
    exact_mod_cast h

theorem tpdf_bounds (rng : BitVec 64) :
    -1 ≤ tpdf Config.defaults rng ∧ tpdf Config.defaults rng < 1 := by
  have h1 := uniformDraw_bounds (xorshift64 Config.defaults rng)
  have h2 := uniformDraw_bounds (xorshift64 Config.defaults (xorshift64 Config.defaults rng))
  have ha : Config.defaults.ditherAmp = 1 := rfl
  rw [tpdf, ha, one_mul]
  constructor <;> linarith [h1.1, h1.2, h2.1, h2.2]

theorem trunc_of_nonneg {x : ℚ} (h : 0 ≤ x) : trunc x = ⌊x⌋ := by
  rw [trunc, if_neg (by linarith)]

theorem trunc_of_neg {x : ℚ} (h : x < 0) : trunc x = ⌈x⌉ := by
  rw [trunc, if_pos h, Int.floor_neg, neg_neg]

theorem clamp_bounds (x lo hi : ℚ) (h : lo ≤ hi) : lo ≤ clamp x lo hi ∧ clamp x lo hi ≤ hi := by
  unfold clamp
  exact ⟨le_min (le_max_right _ _) h, min_le_right _ _⟩

end Machine

end Sys2Proof
end

