-- ==== Sys2Proof/Laws/PerInstr.lean ====
section
/-! SUPPORT. The family FixedBits: every well-formed command's word carries the fixed bits of its row
of spec/opcode_table.json. -/

namespace Sys2Proof

/-- A WRITE word is its register part and its data part. -/
theorem writeWord_or (r d : Byte) : writeWord r d = writeWord r 0 ||| writeWord 0 d := by
  apply BitVec.eq_of_toNat_eq
  rw [BitVec.toNat_or, writeWord_toNat, writeWord_toNat, writeWord_toNat]
  have h := Nat.shiftLeft_add_eq_or_of_lt d.isLt r.toNat
  simp only [Nat.shiftLeft_eq] at h
  simpa using h

/-- Under a mask with a zero low byte only the register counts. -/
theorem matchesRow_writeWord {m v : Word} (hm : ∀ d : Byte, writeWord 0 d &&& m = 0) (r d : Byte) :
    matchesRow (writeWord r d) (m, v) = matchesRow (writeWord r 0) (m, v) := by
  unfold matchesRow
  rw [writeWord_or r d, BitVec.and_comm, BitVec.and_or_distrib_left, BitVec.and_comm m (writeWord 0 d),
    hm d, BitVec.and_comm m]
  simp

/-- Every RENDER word carries the RENDER row's fixed bits. -/
theorem matchesRow_renderWord (n : BitVec 30) :
    matchesRow (renderWord n) (0xC0000000#32, 0x40000000#32) = true := by
  have hk : wordKind (renderWord n) = 0b01#2 := wordKind_renderWord n
  have hsplit : ∀ w : Word, w &&& 0xC0000000#32 = (wordKind w).setWidth 32 <<< 30 := by
    intro w
    ext i hi
    interval_cases i <;> simp [wordKind]
  simp only [matchesRow, hsplit, hk]
  decide

namespace Laws.FixedBits

set_option Elab.async false

/-- The encoded word of a well-formed command matches the mask and match of its own row. -/
def Statement (i : Instr) : Prop :=
  i.wf = true → ∃ row, opcodeRows[i.rowIndex]? = some row ∧ matchesRow (encode i) row = true

theorem writeP1Ctrl (d : Byte) : Statement (.writeP1Ctrl d) := fun _ =>
  ⟨_, rfl, (matchesRow_writeWord (by decide +kernel) _ d).trans (by decide)⟩

theorem writeP1Sweep (d : Byte) : Statement (.writeP1Sweep d) := fun _ =>
  ⟨_, rfl, (matchesRow_writeWord (by decide +kernel) _ d).trans (by decide)⟩

theorem writeP1Tlo (d : Byte) : Statement (.writeP1Tlo d) := fun _ =>
  ⟨_, rfl, (matchesRow_writeWord (by decide +kernel) _ d).trans (by decide)⟩

theorem writeP1Len (d : Byte) : Statement (.writeP1Len d) := fun _ =>
  ⟨_, rfl, (matchesRow_writeWord (by decide +kernel) _ d).trans (by decide)⟩

theorem writeP2Ctrl (d : Byte) : Statement (.writeP2Ctrl d) := fun _ =>
  ⟨_, rfl, (matchesRow_writeWord (by decide +kernel) _ d).trans (by decide)⟩

theorem writeP2Sweep (d : Byte) : Statement (.writeP2Sweep d) := fun _ =>
  ⟨_, rfl, (matchesRow_writeWord (by decide +kernel) _ d).trans (by decide)⟩

theorem writeP2Tlo (d : Byte) : Statement (.writeP2Tlo d) := fun _ =>
  ⟨_, rfl, (matchesRow_writeWord (by decide +kernel) _ d).trans (by decide)⟩

theorem writeP2Len (d : Byte) : Statement (.writeP2Len d) := fun _ =>
  ⟨_, rfl, (matchesRow_writeWord (by decide +kernel) _ d).trans (by decide)⟩

theorem writeTriCtrl (d : Byte) : Statement (.writeTriCtrl d) := fun _ =>
  ⟨_, rfl, (matchesRow_writeWord (by decide +kernel) _ d).trans (by decide)⟩

theorem writeTriUnused (d : Byte) : Statement (.writeTriUnused d) := fun _ =>
  ⟨_, rfl, (matchesRow_writeWord (by decide +kernel) _ d).trans (by decide)⟩

theorem writeTriTlo (d : Byte) : Statement (.writeTriTlo d) := fun _ =>
  ⟨_, rfl, (matchesRow_writeWord (by decide +kernel) _ d).trans (by decide)⟩

theorem writeTriLen (d : Byte) : Statement (.writeTriLen d) := fun _ =>
  ⟨_, rfl, (matchesRow_writeWord (by decide +kernel) _ d).trans (by decide)⟩

theorem writeNoiseCtrl (d : Byte) : Statement (.writeNoiseCtrl d) := fun _ =>
  ⟨_, rfl, (matchesRow_writeWord (by decide +kernel) _ d).trans (by decide)⟩

theorem writeNoiseUnused (d : Byte) : Statement (.writeNoiseUnused d) := fun _ =>
  ⟨_, rfl, (matchesRow_writeWord (by decide +kernel) _ d).trans (by decide)⟩

theorem writeNoisePeriod (d : Byte) : Statement (.writeNoisePeriod d) := fun _ =>
  ⟨_, rfl, (matchesRow_writeWord (by decide +kernel) _ d).trans (by decide)⟩

theorem writeNoiseLen (d : Byte) : Statement (.writeNoiseLen d) := fun _ =>
  ⟨_, rfl, (matchesRow_writeWord (by decide +kernel) _ d).trans (by decide)⟩

theorem writeDmcUnused (r d : Byte) : Statement (.writeDmcUnused r d) := fun hw =>
  ⟨_, rfl, by
    have hr : ∀ r : Byte, (Instr.writeDmcUnused r 0).wf = true →
        matchesRow (writeWord r 0) (0xFFFFFC00#32, 0x00001000#32) = true := by decide +kernel
    exact (matchesRow_writeWord (by decide +kernel) r d).trans (hr r hw)⟩

theorem write0x14 (d : Byte) : Statement (.write0x14 d) := fun _ =>
  ⟨_, rfl, (matchesRow_writeWord (by decide +kernel) _ d).trans (by decide)⟩

theorem writeStatus (d : Byte) : Statement (.writeStatus d) := fun _ =>
  ⟨_, rfl, (matchesRow_writeWord (by decide +kernel) _ d).trans (by decide)⟩

theorem write0x16 (d : Byte) : Statement (.write0x16 d) := fun _ =>
  ⟨_, rfl, (matchesRow_writeWord (by decide +kernel) _ d).trans (by decide)⟩

theorem writeFrame (d : Byte) : Statement (.writeFrame d) := fun _ =>
  ⟨_, rfl, (matchesRow_writeWord (by decide +kernel) _ d).trans (by decide)⟩

theorem writeIgn18 (r d : Byte) : Statement (.writeIgn18 r d) := fun hw =>
  ⟨_, rfl, by
    have hr : ∀ r : Byte, (Instr.writeIgn18 r 0).wf = true →
        matchesRow (writeWord r 0) (0xFFFFF800#32, 0x00001800#32) = true := by decide +kernel
    exact (matchesRow_writeWord (by decide +kernel) r d).trans (hr r hw)⟩

theorem writeIgn20 (r d : Byte) : Statement (.writeIgn20 r d) := fun hw =>
  ⟨_, rfl, by
    have hr : ∀ r : Byte, (Instr.writeIgn20 r 0).wf = true →
        matchesRow (writeWord r 0) (0xFFFFE000#32, 0x00002000#32) = true := by decide +kernel
    exact (matchesRow_writeWord (by decide +kernel) r d).trans (hr r hw)⟩

theorem writeIgn40 (r d : Byte) : Statement (.writeIgn40 r d) := fun hw =>
  ⟨_, rfl, by
    have hr : ∀ r : Byte, (Instr.writeIgn40 r 0).wf = true →
        matchesRow (writeWord r 0) (0xFFFFC000#32, 0x00004000#32) = true := by decide +kernel
    exact (matchesRow_writeWord (by decide +kernel) r d).trans (hr r hw)⟩

theorem writeIgn80 (r d : Byte) : Statement (.writeIgn80 r d) := fun hw =>
  ⟨_, rfl, by
    have hr : ∀ r : Byte, (Instr.writeIgn80 r 0).wf = true →
        matchesRow (writeWord r 0) (0xFFFF8000#32, 0x00008000#32) = true := by decide +kernel
    exact (matchesRow_writeWord (by decide +kernel) r d).trans (hr r hw)⟩

theorem render (n : Nat) : Statement (.render n) := fun _ =>
  ⟨_, rfl, matchesRow_renderWord (BitVec.ofNat 30 n)⟩

theorem silence : Statement .silence := fun _ => ⟨_, rfl, by decide⟩

end Laws.FixedBits

end Sys2Proof
end

