-- ==== Sys2Proof/Laws/Render.lean ====
section
/-! SUPPORT. A RENDER taken apart: the block's part does not depend on the buffer, and the buffer's
part is one accumulation per element. -/

namespace Sys2Proof.Machine

@[simp] theorem outputSample_blk (c : Config) (i : Nat) (r : Rendering) :
    (outputSample c i r).blk = sampleState c r.blk := rfl

@[simp] theorem outputSample_out (c : Config) (i : Nat) (r : Rendering) :
    (outputSample c i r).out = r.out.accumulate i (sampleValue c r.blk) := rfl

theorem renderFrom_blk (c : Config) (i n : Nat) (r : Rendering) :
    (renderFrom c i n r).blk = afterSamples c n r.blk := by
  induction n generalizing i r with
  | zero => rfl
  | succ n ih => simp [renderFrom, afterSamples, ih]

theorem renderFrom_size (c : Config) (i n : Nat) (r : Rendering) :
    (renderFrom c i n r).out.size = r.out.size := by
  induction n generalizing i r with
  | zero => rfl
  | succ n ih => simp [renderFrom, ih]

theorem renderFrom_wf (c : Config) (i n : Nat) (r : Rendering) (h : r.out.wf = true)
    (hn : i + n ≤ r.out.size) : (renderFrom c i n r).out.wf = true := by
  induction n generalizing i r with
  | zero => exact h
  | succ n ih =>
    rw [renderFrom]
    exact ih _ _ (Memory.accumulate_wf h (by omega) _) (by simp; omega)

theorem afterSamples_add (c : Config) (m n : Nat) (b : Block) :
    afterSamples c (m + n) b = afterSamples c n (afterSamples c m b) := by
  induction m generalizing b with
  | zero => simp [afterSamples]
  | succ m ih => rw [Nat.add_right_comm, afterSamples, ih, afterSamples]

theorem execRender_of_le {n : Nat} {s : State} (h : n ≤ s.out.size) :
    execRender n s = .next (renderInto Config.defaults n s) := by
  simp [execRender, h]

theorem execRender_of_short {n : Nat} {s : State} (h : s.out.size < n) :
    execRender n s = .refused (.shortBuffer n s.out.size) := by
  simp [execRender, Nat.not_le.mpr h]

/-- All that a RENDER that answers a next state can do. -/
theorem execRender_cases {n : Nat} {s s' : State} (h : execRender n s = .next s') :
    n ≤ s.out.size ∧ s' = renderInto Config.defaults n s := by
  unfold execRender at h
  split at h
  · exact ⟨‹_›, by simpa using h.symm⟩
  · simp at h

end Sys2Proof.Machine
end

