-- ==== Sys2Proof/Laws/Writes.lean ====
section
/-! SUPPORT. Register writes: what the register file reads after a store. -/

namespace Sys2Proof.Machine

/-- The register file after a store, read at any index. -/
theorem Block.store_regs_get (b : Block) (r d : Byte) (i : Fin 24) :
    (b.store r d).regs[i] = if r.toNat = i.val then d else b.regs[i] := by
  unfold Block.store
  split
  · simp only [Fin.getElem_fin, Vector.getElem_set]
  · have : r.toNat ≠ i.val := by
      have := i.isLt
      omega
    simp [this]

/-- A store to a number beyond the register file changes nothing (spec/40_apu_writes.md R192). -/
theorem Block.store_beyond (b : Block) {r : Byte} (d : Byte) (h : 0x18 ≤ r.toNat) :
    b.store r d = b := by
  unfold Block.store
  rw [dif_neg (by omega)]

/-- A store is an update of `regs` alone. -/
theorem Block.store_eq (b : Block) (r d : Byte) :
    b.store r d = { b with regs := (b.store r d).regs } := by
  unfold Block.store
  split <;> rfl

/-- A timer-low write as a number (spec/40_apu_writes.md R173). -/
theorem withTimerLow_toNat (t : Timer) (d : Byte) :
    (withTimerLow t d).toNat = t.toNat / 256 * 256 + d.toNat := by
  have ht := t.isLt
  have h : (withTimerLow t d).toNat = (t.extractLsb' 8 3 ++ d : BitVec (3 + 8)).toNat := rfl
  rw [h, toNat_append_add]
  simp only [BitVec.extractLsb'_toNat, Nat.shiftRight_eq_div_pow]
  omega

/-- The timer part of a 4th-register write as a number (R174). -/
theorem withTimerHigh_toNat (t : Timer) (d : Byte) :
    (withTimerHigh t d).toNat = d.toNat % 8 * 256 + t.toNat % 256 := by
  have h : (withTimerHigh t d).toNat = (timerHigh d ++ t.extractLsb' 0 8 : BitVec (3 + 8)).toNat :=
    rfl
  rw [h, toNat_append_add]
  simp [timerHigh, BitVec.extractLsb'_toNat]

end Sys2Proof.Machine
end

