-- ==== Sys2Proof/Laws/Step.lean ====
section
/-! SUPPORT. All that a step and a recorded step can do. -/

namespace Sys2Proof.Machine

/-- What a step that answers a next state did: nothing was pending, or the oldest command ran. -/
theorem step_cases {s s' : State} (h : step s = .next s') :
    s.refusalMark = false ∧
      ((s.pending = [] ∧ s' = s) ∨
        ∃ call rest i t, s.pending = call :: rest ∧ decode call.word = .ok i ∧
          exec i (s.accept call rest) = .next t ∧ s' = t.handBack i) := by
  unfold step at h
  split at h
  · simp at h
  · rename_i hm
    refine ⟨by simpa using hm, ?_⟩
    split at h
    · rename_i hp
      exact .inl ⟨hp, by simpa using h.symm⟩
    · rename_i call rest hp
      split at h
      · simp at h
      · rename_i i hd
        cases ht : exec i (s.accept call rest) with
        | next t =>
          rw [ht] at h
          exact .inr ⟨call, rest, i, t, hp, hd, ht, by simpa [handBackOutcome] using h.symm⟩
        | fault f => nomatch f
        | refused r => simp [ht, handBackOutcome] at h

/-- The step that runs a pending command (spec/44_control.md R400). -/
theorem step_of_exec {s t : State} {call : Call} {rest : List Call} {i : Instr}
    (hm : s.refusalMark = false) (hp : s.pending = call :: rest) (hd : decode call.word = .ok i)
    (ht : exec i (s.accept call rest) = .next t) : step s = .next (t.handBack i) := by
  simp [step, hm, hp, hd, ht, handBackOutcome]

/-- `advance` is the step, or the mark set. -/
theorem advance_cases (s : State) :
    (∃ s', step s = .next s' ∧ advance s = s') ∨
      (∃ r, step s = .refused r ∧ advance s = s.markRefused) := by
  unfold advance
  cases h : step s with
  | next s' => exact .inl ⟨s', rfl, rfl⟩
  | fault f => nomatch f
  | refused r => exact .inr ⟨r, rfl, rfl⟩

/-- No command but RENDER touches the buffer. -/
theorem exec_out_of_not_lends {i : Instr} {s t : State} (hl : lendsBuffer i = false)
    (h : exec i s = .next t) : t.out = s.out := by
  cases i <;> first
    | (cases h; rfl)
    | simp [lendsBuffer] at hl

end Sys2Proof.Machine
end

