-- ==== Sys2Proof/Tests/Slice0.lean ====
section
/-! SUPPORT. Tests with expected results from spec/95_test_vectors.md and the rules' examples, and a
witness for the hypotheses of each obligation. -/

namespace Sys2Proof.Tests

-- A `decide +kernel` waits for every earlier check; one thread for each of them would be too many.
set_option Elab.async false

open Sys2Proof Sys2Proof.Machine

/-! Well-formedness: each check refuses an ill-formed term -/

theorem test_wf_dmc_below : (Instr.writeDmcUnused 0x0F 0).wf = false := by decide
theorem test_wf_dmc_above : (Instr.writeDmcUnused 0x14 0).wf = false := by decide
theorem test_wf_ign18_below : (Instr.writeIgn18 0x17 0).wf = false := by decide
theorem test_wf_ign18_above : (Instr.writeIgn18 0x20 0).wf = false := by decide
theorem test_wf_ign20_below : (Instr.writeIgn20 0x1F 0).wf = false := by decide
theorem test_wf_ign20_above : (Instr.writeIgn20 0x40 0).wf = false := by decide
theorem test_wf_ign40_below : (Instr.writeIgn40 0x3F 0).wf = false := by decide
theorem test_wf_ign40_above : (Instr.writeIgn40 0x80 0).wf = false := by decide
theorem test_wf_ign80_below : (Instr.writeIgn80 0x7F 0).wf = false := by decide
theorem test_wf_render_above : (Instr.render 1073741824).wf = false := by decide

/-! Decoding: a word written out from R131 to R133 for every constructor -/

theorem test_decode_pulse1 :
    decode 0x000000BF#32 = .ok (.writeP1Ctrl 0xBF) ∧ decode 0x0000019A#32 = .ok (.writeP1Sweep 0x9A) ∧
      decode 0x000002FD#32 = .ok (.writeP1Tlo 0xFD) ∧ decode 0x00000308#32 = .ok (.writeP1Len 0x08) := by
  decide

theorem test_decode_pulse2 :
    decode 0x00000430#32 = .ok (.writeP2Ctrl 0x30) ∧ decode 0x00000500#32 = .ok (.writeP2Sweep 0x00) ∧
      decode 0x000006FE#32 = .ok (.writeP2Tlo 0xFE) ∧ decode 0x000007F9#32 = .ok (.writeP2Len 0xF9) := by
  decide

theorem test_decode_triangle :
    decode 0x00000880#32 = .ok (.writeTriCtrl 0x80) ∧ decode 0x000009FF#32 = .ok (.writeTriUnused 0xFF) ∧
      decode 0x00000A7F#32 = .ok (.writeTriTlo 0x7F) ∧ decode 0x00000B01#32 = .ok (.writeTriLen 0x01) := by
  decide

theorem test_decode_noise :
    decode 0x00000C1A#32 = .ok (.writeNoiseCtrl 0x1A) ∧
      decode 0x00000D12#32 = .ok (.writeNoiseUnused 0x12) ∧
      decode 0x00000E85#32 = .ok (.writeNoisePeriod 0x85) ∧
      decode 0x00000F18#32 = .ok (.writeNoiseLen 0x18) := by
  decide

theorem test_decode_system :
    decode 0x00001000#32 = .ok (.writeDmcUnused 0x10 0x00) ∧
      decode 0x0000137F#32 = .ok (.writeDmcUnused 0x13 0x7F) ∧
      decode 0x00001402#32 = .ok (.write0x14 0x02) ∧ decode 0x0000150F#32 = .ok (.writeStatus 0x0F) ∧
      decode 0x00001601#32 = .ok (.write0x16 0x01) ∧ decode 0x00001780#32 = .ok (.writeFrame 0x80) := by
  decide

/-- V-ENC-5, V-ENC-6 and the ends of the four ranges of R154. -/
theorem test_decode_ignored :
    decode 0x00001801#32 = .ok (.writeIgn18 0x18 0x01) ∧ decode 0x00001F02#32 = .ok (.writeIgn18 0x1F 0x02) ∧
      decode 0x000020FF#32 = .ok (.writeIgn20 0x20 0xFF) ∧ decode 0x00003F03#32 = .ok (.writeIgn20 0x3F 0x03) ∧
      decode 0x00004004#32 = .ok (.writeIgn40 0x40 0x04) ∧ decode 0x00007F05#32 = .ok (.writeIgn40 0x7F 0x05) ∧
      decode 0x00008006#32 = .ok (.writeIgn80 0x80 0x06) ∧ decode 0x0000FF00#32 = .ok (.writeIgn80 0xFF 0x00) := by
  decide

/-- V-ENC-2, V-ENC-3, V-ENC-4, V-ENC-10. -/
theorem test_decode_control :
    decode 0x40000064#32 = .ok (.render 100) ∧ decode 0x80000000#32 = .ok .silence ∧
      decode 0x7FFFFFFF#32 = .ok (.render 1073741823) ∧ decode 0x40000000#32 = .ok (.render 0) := by
  decide

/-- V-ENC-7 to V-ENC-9, and the top must-be-zero bits of WRITE and SILENCE. -/
theorem test_decode_illegal :
    decode 0xC0000000#32 = .error .reservedKind ∧ decode 0x00010000#32 = .error .writeNonzero ∧
      decode 0x20000000#32 = .error .writeNonzero ∧ decode 0x80000001#32 = .error .silenceNonzero ∧
      decode 0xA0000000#32 = .error .silenceNonzero := by
  decide

theorem test_decodeTableWord :
    decodeTableWord 32 0x1705 = some (.writeFrame 0x05) ∧ decodeTableWord 32 0xC0000000 = none := by
  decide

/-! Helpers -/

/-- The block after one WRITE or SILENCE command from `b`, run through a step. -/
def after (b : Block) (w : Nat) : Option Block :=
  match step ({ State.reset with blk := b }.withFetchWord 32 w) with
  | .next t => some t.blk
  | _ => none

/-- Block states with one part set. -/
def withPulse1 (x : Pulse) : Block := { Block.reset with pulse1 := x }
def withPulse2 (x : Pulse) : Block := { Block.reset with pulse2 := x }
def withTriTimer (t : Timer) : Block := { Block.reset with tri := ⟨t, 0, 0⟩ }
def withReg (k : Fin 24) (d : Byte) (b : Block) : Block := { b with regs := b.regs.set k.val d k.isLt }

/-- The amplitudes as a list. -/
def amps (b : Block) : List Nat :=
  let a := amplitudes Config.defaults b
  [a.p1, a.p2, a.tri, a.noise]

/-! Register writes -/

/-- R171: 0xBF gives DUTY = 2, LH = 1, CV = 1, V = 15. -/
theorem test_writeP1Ctrl : (after Block.reset 0x000000BF).map (fun b =>
    (dutyOf Config.defaults b.regs[0x00], loopHalt b.regs[0x00], constVolume b.regs[0x00],
      volume b.regs[0x00])) = some (1 / 2, true, true, 15) := by decide +kernel

/-- R172: 0x9A gives SE = 1, SP = 1, SN = 1, SS = 2, and sets the reload flag. -/
theorem test_writeP1Sweep : (after Block.reset 0x0000019A).map (fun b =>
    (sweepEnable b.regs[0x01], sweepPeriod b.regs[0x01], sweepNegate b.regs[0x01],
      sweepShift b.regs[0x01], b.pulse1.sweep.reload)) = some (true, 1, true, 2, true) := by
  decide +kernel

/-- R173: with timer 0x500, 0xFD gives 0x5FD. -/
theorem test_writeP1Tlo : (after (withPulse1 { Pulse.reset with timer := 0x500 }) 0x000002FD).map
    (·.pulse1.timer) = some 0x5FD := by decide +kernel

/-- V-WR-1: timer 0x7FD, length 30, start flag set. -/
theorem test_writeP1Len_all : (after (withPulse1 { Pulse.reset with timer := 0x0FD }) 0x000003FF).map
    (fun b => (b.pulse1.timer, b.pulse1.length, b.pulse1.env.start)) = some (0x7FD, 30, true) := by
  decide +kernel

/-- V-WR-2: timer 0x0FD, length 254, start flag set. -/
theorem test_writeP1Len : (after (withPulse1 { Pulse.reset with timer := 0x7FD }) 0x00000308).map
    (fun b => (b.pulse1.timer, b.pulse1.length, b.pulse1.env.start)) = some (0x0FD, 254, true) := by
  decide +kernel

/-- R175: 0x30 gives duty 1/8, LH = 1, CV = 1, V = 0. -/
theorem test_writeP2Ctrl : (after Block.reset 0x00000430).map (fun b =>
    (dutyOf Config.defaults b.regs[0x04], loopHalt b.regs[0x04], constVolume b.regs[0x04],
      volume b.regs[0x04])) = some (1 / 8, true, true, 0) := by decide +kernel

/-- R176: pulse 2's reload flag is set, and pulse 1's stays. -/
theorem test_writeP2Sweep : (after Block.reset 0x00000500).map (fun b =>
    (b.pulse1.sweep.reload, b.pulse2.sweep.reload)) = some (false, true) := by decide +kernel

/-- R177: with timer 0, 0xFE gives 0x0FE. -/
theorem test_writeP2Tlo : (after Block.reset 0x000006FE).map
    (fun b => (b.pulse1.timer, b.pulse2.timer)) = some (0, 0x0FE) := by decide +kernel

/-- R178: 0xF9 gives length 30 and timer bits 10:8 = 1. -/
theorem test_writeP2Len : (after (withPulse2 { Pulse.reset with timer := 0x0FE }) 0x000007F9).map
    (fun b => (b.pulse2.timer, b.pulse2.length, b.pulse2.env.start, b.pulse1.env.start)) =
      some (0x1FE, 30, true, false) := by decide +kernel

/-- R179: 0x80 halts the triangle's length counter. -/
theorem test_writeTriCtrl : (after Block.reset 0x00000880).map (fun b => triHalt b.triCtrl) = some true := by
  decide +kernel

/-- V-WR-11. -/
theorem test_writeTriUnused : (after Block.reset 0x0000095A).map (fun b => (b.regs[0x09], b.regs[0x08])) =
    some (0x5A, 0x00) := by decide +kernel

/-- R181: with timer 0x100, 0x7F gives 0x17F. -/
theorem test_writeTriTlo : (after (withTriTimer 0x100) 0x00000A7F).map (·.tri.timer) = some 0x17F := by
  decide +kernel

/-- V-WR-3: triangle timer 0x200, length 254. -/
theorem test_writeTriLen : (after Block.reset 0x00000B0A).map (fun b => (b.tri.timer, b.tri.length)) =
    some (0x200, 254) := by decide +kernel

/-- R183: 0x1A gives LH = 0, CV = 1, V = 10. -/
theorem test_writeNoiseCtrl : (after Block.reset 0x00000C1A).map (fun b =>
    (loopHalt b.noiseCtrl, constVolume b.noiseCtrl, volume b.noiseCtrl)) = some (false, true, 10) := by
  decide +kernel

theorem test_writeNoiseUnused : (after Block.reset 0x00000D12).map (·.regs[0x0D]) = some 0x12 := by
  decide +kernel

/-- R185: 0x85 gives mode 1 and the period 88; the shift register is not reseeded. -/
theorem test_writeNoisePeriod : (after { Block.reset with noise := { Block.reset.noise with lfsr := 0x40 } }
    0x00000E85).map (fun b => (noiseMode b.noiseModePeriod, noisePeriod Config.defaults b.noiseModePeriod,
      b.noise.lfsr)) = some (true, 88, 0x40) := by decide +kernel

/-- V-WR-4 and R186. -/
theorem test_writeNoiseLen : (after Block.reset 0x00000FF8).map
    (fun b => (b.noise.length, b.noise.env.start)) = some (30, true) := by decide +kernel

theorem test_writeDmcUnused : (after Block.reset 0x0000117F).map (fun b =>
    (b.regs[0x10], b.regs[0x11], b.regs[0x12])) = some (0x00, 0x7F, 0x00) := by decide +kernel

theorem test_write0x14 : (after Block.reset 0x00001402).map (·.regs[0x14]) = some 0x02 := by decide +kernel

/-- R189: 0x05 enables pulse 1 and the triangle; no length counter changes (V-LEN-5). -/
theorem test_writeStatus : (after (withPulse1 { Pulse.reset with length := 200 }) 0x00001505).map (fun b =>
    (enableP1 b.status, enableP2 b.status, enableTri b.status, enableNoise b.status, b.pulse1.length)) =
      some (true, false, true, false, 200) := by decide +kernel

theorem test_write0x16 : (after Block.reset 0x00001601).map (·.regs[0x16]) = some 0x01 := by decide +kernel

/-- V-FS-3: the step becomes 0 and the countdown stays 173. -/
theorem test_writeFrame : (after { Block.reset with fs := ⟨2, 173⟩ } 0x00001780).map
    (fun b => (b.fs, fiveStep b.frameMode)) = some (⟨0, 173⟩, true) := by decide +kernel

/-- V-WR-10. -/
theorem test_writeIgn20 : step (State.reset.withFetchWord 32 0x000020FF) =
    .next State.reset := rfl

/-- R192: 0x18 is no alias of 0x00. -/
theorem test_writeIgn18 : step (State.reset.withFetchWord 32 0x000018FF) =
    .next State.reset := rfl

theorem test_writeIgn40 : step (State.reset.withFetchWord 32 0x000055FF) =
    .next State.reset := rfl

theorem test_writeIgn80 : step (State.reset.withFetchWord 32 0x000097FF) =
    .next State.reset := rfl

/-! Gates and amplitudes -/

/-- V-WR-5: volume 0 closes the gate; V-WR-6: volume 1 opens it. -/
theorem test_gate_volume :
    amps (withReg 0x15 0x0F (withReg 0x00 0x10 (withPulse1 { Pulse.reset with length := 254 }))) =
        [0, 0, 0, 0] ∧
      amps (withReg 0x15 0x0F (withReg 0x00 0x11 (withPulse1 { Pulse.reset with length := 254 }))) =
        [1, 0, 0, 0] := by decide +kernel

/-- V-WR-8: the triangle needs only its enable bit and a nonzero length. -/
theorem test_gate_triangle :
    amps (withReg 0x15 0x04 { Block.reset with tri := ⟨0, 254, 0⟩ }) = [0, 0, 15, 0] := by decide +kernel

/-! Envelope, length counter, sweep -/

/-- V-ENV-4, first clock; V-ENV-5, first clock. -/
theorem test_envelope_clock : clockEnvelope ⟨false, 0, 0⟩ 0x23 = ⟨false, 3, 15⟩ ∧
    clockEnvelope ⟨true, 5, 7⟩ 0x04 = ⟨false, 4, 15⟩ := by decide

/-- V-ENV-3. -/
theorem test_envelope_runs_out : (List.range 5).map (fun n =>
    ((envelopeAfter 0x01 (n + 1) ⟨false, 0, 1⟩).divider, (envelopeAfter 0x01 (n + 1) ⟨false, 0, 1⟩).decay)) =
      [(1, 0), (0, 0), (1, 0), (0, 0), (1, 0)] := by decide

/-- V-LEN-1 and V-LEN-2. -/
theorem test_length_clock : (List.range 3).map (fun n => lengthAfter false (n + 1) 2) = [1, 0, 0] ∧
    (List.range 3).map (fun n => lengthAfter true (n + 1) 2) = [2, 2, 2] := by decide

/-- One half-frame clock of a sweep unit: timer, divider and reload flag. -/
def swept (p : PulseIx) (t : Timer) (r1 : Byte) (d : BitVec 3) (reload : Bool) : Timer × BitVec 3 × Bool :=
  let y := clockSweep p r1 { Pulse.reset with timer := t, sweep := ⟨d, reload⟩ }
  (y.timer, y.sweep.divider, y.sweep.reload)

/-- V-SW-1 to V-SW-5. -/
theorem test_sweep_targets : swept .p1 0x100 0x81 0 false = (0x180, 0, false) ∧
    swept .p1 0x100 0x89 0 false = (0x07F, 0, false) ∧ swept .p2 0x100 0x89 0 false = (0x080, 0, false) ∧
    swept .p1 0x200 0x89 0 false = (0x0FF, 0, false) ∧ swept .p2 0x200 0x89 0 false = (0x100, 0, false) := by
  decide

/-- V-SW-6 to V-SW-11. -/
theorem test_sweep_blocked : swept .p1 0x7FF 0x81 0 false = (0x7FF, 0, false) ∧
    swept .p1 0x600 0x81 0 false = (0x600, 0, false) ∧ swept .p1 0x005 0x81 0 false = (0x005, 0, false) ∧
    swept .p1 0x008 0x81 0 false = (0x00C, 0, false) ∧ swept .p1 0x100 0x80 0 false = (0x100, 0, false) ∧
    swept .p1 0x100 0x01 0 false = (0x100, 0, false) := by decide

/-- V-SW-12 to V-SW-17. -/
theorem test_sweep_divider : swept .p1 0x100 0xB1 0 false = (0x180, 3, false) ∧
    swept .p1 0x100 0xB1 2 false = (0x100, 1, false) ∧ swept .p1 0x100 0xB1 0 true = (0x180, 3, false) ∧
    swept .p2 0x001 0x89 0 false = (0x001, 0, false) ∧ swept .p1 0x008 0x8B 0 false = (0x006, 0, false) ∧
    swept .p2 0x7F0 0x87 0 false = (0x7FF, 0, false) := by decide

/-- V-FS-1 and V-FS-2: the steps of consecutive ticks from reset. -/
theorem test_tick_actions : tickActions Config.defaults 6 Block.reset =
      [.quarter, .half, .quarter, .half, .quarter, .half] ∧
    tickActions Config.defaults 6 (withReg 0x17 0x80 Block.reset) =
      [.quarter, .half, .quarter, .half, .null, .quarter] := by decide +kernel

/-! Oscillators -/

/-- One pulse sample under the box kernel: the value and the phase after. -/
def pulsed (φ d dPrev Δ : ℚ) : ℚ × ℚ :=
  let o : PulseOsc := ⟨φ, dPrev, [0, 0]⟩
  (pulseValue Config.defaults o d Δ, (pulseAdvance Config.defaults o d Δ).phase)

/-- V-PU-1 to V-PU-6. -/
theorem test_pulse_edges : pulsed 0 (1/2) (1/2) (3/4) = (1/3, 3/4) ∧
    pulsed 0 (1/8) (1/8) (1/16) = (1, 1/16) ∧ pulsed (1/16) (1/8) (1/8) (1/8) = (0, 3/16) ∧
    pulsed (7/8) (1/2) (1/2) (1/4) = (0, 1/8) ∧ pulsed (1/2) (1/2) (1/2) (1/2) = (-1, 0) ∧
    pulsed 0 (1/4) (1/4) (5/4) = (-1/5, 1/4) := by decide +kernel

/-- V-PU-7 to V-PU-10, with the duty changes. -/
theorem test_pulse_duty : pulsed (1/4) (1/4) (1/4) (1/4) = (-1, 1/2) ∧
    pulsed 0 (3/4) (3/4) (1/2) = (1, 1/2) ∧ pulsed (3/16) (1/2) (1/8) (1/16) = (1, 1/4) ∧
    pulsed (3/16) (1/8) (1/2) (1/16) = (-1, 1/4) := by decide +kernel

/-- V-PU-11, first sample: timer 0. -/
theorem test_pulse_timer0 : pulseDelta Config.defaults 0 = 596591/470400 ∧
    (pulsed 0 (1/2) (1/2) (596591/470400)).1 = 126191/596591 := by decide +kernel

/-- V-TR-1, and V-TR-2's increment. -/
theorem test_triangle : [0, 1/8, 1/4, 1/2, 5/8, 3/4, 15/16].map triValue = [-1, -1/2, 0, 1, 1/2, 0, -3/4] ∧
    triDelta Config.defaults 64 = 596591/60211200 := by decide +kernel

/-- V-TR-3. -/
theorem test_triangle_stopped : triValue (3/8) = 1/2 ∧
    (triAdvance Config.defaults ⟨0, 0, 3/8⟩).phase = 3/8 := by decide +kernel

/-- V-NZ-1, first and last step, and V-NZ-3's last step: 0x2 steps to 1 in mode 1. -/
theorem test_lfsr : lfsrStep Config.defaults false 1 = 0x4000 ∧ lfsrStep Config.defaults true 0x80 = 0x40 ∧
    lfsrStep Config.defaults true 0x2 = 1 := by decide

/-- V-NZ-4, samples 1 and 4: index 0, P = 4. -/
theorem test_noise_clock :
    noiseClock Config.defaults 0x00 ⟨0, ⟨false, 0, 0⟩, 1, 0⟩ = ⟨0, ⟨false, 0, 0⟩, 0x4000, 3⟩ ∧
      noiseClock Config.defaults 0x00 ⟨0, ⟨false, 0, 0⟩, 0x4000, 1⟩ = ⟨0, ⟨false, 0, 0⟩, 0x2000, 4⟩ := by
  decide +kernel

/-- V-NZ-6. -/
theorem test_noise_value : noiseValue ⟨0, ⟨false, 0, 0⟩, 1, 0⟩ = -1 ∧
    noiseValue ⟨0, ⟨false, 0, 0⟩, 0x4000, 0⟩ = 1 := by decide +kernel

/-! Mixer, filter, quantiser -/

/-- V-MIX-1: pulse 1 at A = 15 and u = +1. -/
theorem test_mixer : mixSum Config.defaults ⟨15, 0, 0, 0⟩ (withPulse1 { Pulse.reset with timer := 0x0FD }) =
    7680 := by decide +kernel

/-- V-HB-3, full delay line, and V-HB-1, outputs 0 and 1. -/
theorem test_filter : decimate Config.defaults (Vector.replicate 9 1000) = 1000 ∧
    decimate Config.defaults #v[0, 1, 0, 0, 0, 0, 0, 0, 0] = -1/32 ∧
    decimate Config.defaults #v[0, 0, 0, 1, 0, 0, 0, 0, 0] = 9/32 := by decide +kernel

/-- V-XS-1, first two words, and V-XS-2. -/
theorem test_xorshift : xorshift64 Config.defaults 0x0139408DCBBF7A44 = 0x79690975FBDE15B0 ∧
    xorshift64 Config.defaults 0x79690975FBDE15B0 = 0x2A337357AE2CC59B ∧
    xorshift64 Config.defaults 1 = 0x40822041 := by decide

/-- V-DI-1. -/
theorem test_dither : tpdf Config.defaults 0x0139408DCBBF7A44 = -1625319562108755/2^52 := by decide +kernel

/-- V-Q-2 to V-Q-5, from reset. -/
theorem test_quantiser : quantiseValue Config.defaults 1 Block.reset = 0 ∧
    quantiseValue Config.defaults (3/2) Block.reset = 1 ∧
    quantiseValue Config.defaults 65536 Block.reset = 32767 ∧
    quantiseValue Config.defaults (-100000) Block.reset = -32768 := by decide +kernel

/-- V-Q-6. -/
theorem test_trunc : trunc (-1/2) = 0 ∧ trunc (-7/4) = -1 ∧ trunc (7/4) = 1 := by decide +kernel

/-- V-DC-1. -/
theorem test_dc : dcTrack Config.defaults 65536 0 = 1 := by decide +kernel

/-- V-ACC-1 to V-ACC-3. -/
theorem test_accumulate :
    (((Memory.ofList [30000, -5, -32768]).accumulate 0 5000).read 0).toInt = 32767 ∧
      (((Memory.ofList [30000, -5, -32768]).accumulate 1 3).read 1).toInt = -2 ∧
      (((Memory.ofList [30000, -5, -32768]).accumulate 2 (-1)).read 2).toInt = -32768 := by decide +kernel

/-! RENDER, SILENCE and refusals -/

/-- V-MIX-3: RENDER 1 after reset. -/
theorem test_render :
    (match step (State.reset.withFetchWord 32 0x40000001) with
      | .next t => some (t.out, t.returned, t.blk.fs.countdown, t.blk.dc, t.blk.rng)
      | _ => none) =
      some (⟨1, []⟩, [⟨1, []⟩], 182, 0, 0x2A337357AE2CC59B) := by decide +kernel

/-- P6: RENDER 3 into a prefilled buffer leaves it, and the free-running parts move on. -/
theorem test_render_prefilled :
    (match exec (.render 3) { State.reset with out := Memory.ofList [32767, -32768, 5] } with
      | .next t => some (t.out, t.blk.fs, t.blk.rng, t.blk.pulse1.osc.phase, t.blk.noise.lfsr,
          t.blk.noise.count)
      | _ => none) =
      some (Memory.ofList [32767, -32768, 5], ⟨0, 180⟩, 0xF70ABB341875063D, 47791/78400, 0x2000, 2) := by
  decide +kernel

/-- V-CTL-3. -/
theorem test_silence : (after (withReg 0x15 0x0F (withReg 0x00 0xBF Block.reset)) 0x80000000).map
    (fun b => (b.regs[0x15], b.regs[0x00])) = some (0x00, 0xBF) := by decide +kernel

/-- V-CTL-4: an illegal word is refused, and only the mark is set. -/
theorem test_refusal :
    step (State.reset.withFetchWord 32 0xC0000000) =
        .refused (.illegalCommand .reservedKind 0xC0000000#32) ∧
      advance (State.reset.withFetchWord 32 0xC0000000) =
        { State.reset.withFetchWord 32 0xC0000000 with refusalMark := true } :=
  ⟨rfl, rfl⟩

/-- R107: a buffer shorter than the count. -/
theorem test_short_buffer : exec (.render 2) { State.reset with out := Memory.zeros 1 } =
    .refused (.shortBuffer 2 1) := rfl

/-! Assembler -/

/-- P3's second line, with a comment, in lower case. -/
theorem test_assemble : assembleWords "write 0x08, 0x80 ; halt".toList = .ok [0x00000880#32] ∧
    assembleWords "WRITE 256, 0".toList = .error .operandOutOfRange ∧
    assembleWords "PTIMER 1, 0xFD, 1".toList = .ok [0x000002FD#32, 0x00000308#32] := by decide +kernel

/-! Witnesses: for each obligation with hypotheses, a state and operands that meet them -/

theorem test_witness_DecodeOfEncode : (Instr.writeDmcUnused 0x13 0xFF).wf = true ∧
    (Instr.writeIgn80 0xFF 0x00).wf = true ∧ (Instr.render 1073741823).wf = true := by decide

theorem test_witness_EncodeOfDecode : decode 0x7FFFFFFF#32 = .ok (.render 1073741823) := by decide

theorem test_witness_LegalWordMatches : decode 0x00001800#32 = .ok (.writeIgn18 0x18 0x00) ∧
    opcodeRows[21]? = some (0xFFFFF800#32, 0x00001800#32) ∧
    matchesRow 0x00001800#32 (0xFFFFF800#32, 0x00001800#32) = true ∧ 0x18 ≤ (0x18 : Byte).toNat ∧
    0x18 ≤ (0xFF : Byte).toNat := by decide

/-- A state with one command pending, lent this buffer. -/
def calling (w : Word) (m : Memory) : State := { State.reset with pending := [⟨w, m⟩] }

theorem test_witness_IllegalWords : (calling 0x00010000#32 (Memory.zeros 0)).refusalMark = false ∧
    (calling 0x00010000#32 (Memory.zeros 0)).pending = [⟨0x00010000#32, Memory.zeros 0⟩] ∧
    decode 0x00010000#32 = .error .writeNonzero := by decide +kernel

theorem test_witness_RefusalMark :
    step (calling 0x80000001#32 (Memory.zeros 0)) =
        .refused (.illegalCommand .silenceNonzero 0x80000001#32) ∧
      State.reset.markRefused.refusalMark = true :=
  ⟨rfl, rfl⟩

theorem test_witness_StepRuns :
    (exec (.render 1) ((calling 0x40000001#32 (Memory.zeros 1)).accept ⟨0x40000001#32, Memory.zeros 1⟩ []) =
        .next (renderInto Config.defaults 1 { State.reset with out := Memory.zeros 1 })) ∧
      decode 0x40000001#32 = .ok (.render 1) ∧
      (exec (.render 1) ((calling 0x40000001#32 (Memory.zeros 0)).accept ⟨0x40000001#32, Memory.zeros 0⟩ []) =
        .refused (.shortBuffer 1 0)) ∧
      State.reset.refusalMark = false ∧ State.reset.pending = [] :=
  ⟨rfl, by decide, rfl, rfl, rfl⟩

/-- A block in 5-step mode at its last step, about to tick, with the signals at their bounds. -/
def busyBlock : Block :=
  { withReg 0x17 0x80 Block.reset with
    fs := ⟨4, 1⟩
    pulse1 := { Pulse.reset with osc := ⟨3/4, 3/4, [0, 0]⟩ }
    hb := Vector.replicate 9 30720
    dc := -34560 }

/-- A state about to render two samples into a buffer of three. -/
def busy : State :=
  { State.reset with blk := busyBlock, pending := [⟨0x40000002#32, Memory.ofList [5, -5, 7]⟩] }

theorem busyBlock_inv : busyBlock.Inv where
  step_lt := by decide +kernel
  countdown_pos := by decide
  countdown_le := by decide
  osc1 := ⟨by decide +kernel, by decide +kernel, by decide +kernel, rfl⟩
  osc2 := ⟨by decide +kernel, by decide +kernel, by decide +kernel, rfl⟩
  tri_nonneg := by decide +kernel
  tri_lt := by decide +kernel
  lfsr_ne := by decide
  count_nonneg := by decide +kernel
  rng_ne := by decide

theorem busy_inv : busy.Inv where
  blk := busyBlock_inv
  out := by decide
  pending := by decide
  returned := by decide

theorem test_witness_StepKeepsTheInvariant : busy.Inv ∧ ∃ t, step busy = .next t :=
  ⟨busy_inv, ⟨_, rfl⟩⟩

theorem test_witness_StepKeepsTheSignalBounds :
    busy.Inv ∧ busy.blk.SignalBound ∧ ∃ t, step busy = .next t :=
  ⟨busy_inv, ⟨by decide +kernel, by decide +kernel⟩, ⟨_, rfl⟩⟩

theorem test_witness_UnusedRegister : (0x10 ≤ (0x10 : Byte).toNat ∧ (0x10 : Byte).toNat < 0x14) ∧
    (0x10 ≤ (0x13 : Byte).toNat ∧ (0x13 : Byte).toNat < 0x14) := by decide

theorem test_witness_Ignored : 0x18 ≤ (0x18 : Byte).toNat ∧ 0x18 ≤ (0xFF : Byte).toNat := by decide

theorem test_witness_OnlyRender : (∀ n, Instr.writeP1Len 0x08 ≠ .render n) ∧
    exec (.writeP1Len 0x08) State.reset =
      .next (State.reset.mapBlock (writePulseLen Config.defaults .p1 0x08)) :=
  ⟨(by simp), rfl⟩

theorem test_witness_RenderAdds :
    (Memory.ofList [5, -5, 7]).wf = true ∧ 3 ≤ (Memory.ofList [5, -5, 7]).size ∧
      (Memory.ofList [5, -5, 7]).size < 4 ∧ (0 : Nat) < 3 := by decide

theorem test_witness_SplitRender :
    (Memory.ofList [5, -5, 7]).wf = true ∧ 1 + 2 ≤ (Memory.ofList [5, -5, 7]).size ∧
      (Memory.ofList [-5, 7]).wf = true ∧ 2 ≤ (Memory.ofList [-5, 7]).size ∧
      ∀ i < 2, (Memory.ofList [-5, 7]).read i = (Memory.ofList [5, -5, 7]).read (1 + i) := by decide

theorem test_witness_TicksCome : 182 < Block.reset.fs.countdown ∧ busyBlock.fs.countdown = 1 ∧
    0 < Block.reset.fs.countdown := by decide

theorem test_witness_TickWindows :
    (fiveStep Block.reset.regs[0x17] = false ∧ Block.reset.fs.step < 4 ∧ Block.reset.fs.step = 0) ∧
      (fiveStep busyBlock.regs[0x17] = true ∧ busyBlock.fs.step < 5) := by decide +kernel

theorem test_witness_TickWindows_first :
    (fiveStep (withReg 0x17 0x80 Block.reset).regs[0x17] = true ∧
      (withReg 0x17 0x80 Block.reset).fs.step < 5 ∧ (withReg 0x17 0x80 Block.reset).fs.step = 0) ∧
      (let b : Block := { Block.reset with fs := ⟨3, 1⟩ }
       fiveStep b.regs[0x17] = false ∧ b.fs.step < 4) := by decide +kernel

theorem test_witness_EnvelopeClock : (⟨true, 0, 0⟩ : Envelope).start = true ∧
    ((⟨false, 0, 15⟩ : Envelope).start = false ∧ (⟨false, 0, 15⟩ : Envelope).divider.toNat = 0) ∧
    ((⟨false, 1, 0⟩ : Envelope).start = false ∧ 0 < (⟨false, 1, 0⟩ : Envelope).divider.toNat) := by decide

theorem test_witness_EnvelopeDecays :
    ((⟨false, 15, 15⟩ : Envelope).divider = volume 0x0F ∧ 0 < (⟨false, 15, 15⟩ : Envelope).decay.toNat) ∧
      ((⟨false, 0, 1⟩ : Envelope).divider = volume 0x00 ∧ 0 < (⟨false, 0, 1⟩ : Envelope).decay.toNat) := by
  decide

theorem test_witness_NegatedTargets : sweepNegate 0x88 = true ∧ sweepShift 0x88 = 0 := by decide

theorem test_witness_Gates : gatePulse Block.reset .p1 = false ∧ gatePulse Block.reset .p2 = false ∧
    gateTri Block.reset = false ∧ gateNoise Block.reset = false ∧
    (withReg 0x15 0x0F (withReg 0x00 0x3F { busyBlock with
      pulse1 := { busyBlock.pulse1 with length := 9, env := ⟨true, 1, 2⟩ } })).SameRunning busyBlock :=
  ⟨by decide, by decide, by decide, by decide,
    ⟨by decide +kernel, rfl, rfl, rfl, rfl, rfl, rfl, rfl, rfl, rfl, rfl, rfl, rfl⟩⟩

theorem test_witness_UnreadBits : (withReg 0x08 0x7F (withReg 0x03 0xFF busyBlock)).SameReadBits busyBlock :=
  ⟨by decide +kernel, rfl⟩

theorem test_witness_EdgeList : (0 : ℚ) < 5/4 ∧
    edgeCandidates 0 (5/4) (1/4) = [0, 1/4, 1, 5/4] ∧
    phaseEdges 0 (5/4) (1/4) = [⟨1/5, -2⟩, ⟨4/5, 2⟩, ⟨1, -2⟩] := by decide +kernel

theorem test_witness_BoxPulse : (0 : ℚ) < 3/4 ∧ (3/4 : ℚ) < 1 ∧ (0 : ℚ) < 5/4 ∧
    0 ≤ busyBlock.pulse1.osc.phase ∧ busyBlock.pulse1.osc.phase < 1 ∧
    busyBlock.pulse1.osc.dutyPrev = 3/4 ∧ busyBlock.pulse1.osc.ring = [0, 0] := by decide +kernel

theorem test_witness_DutyChange : dutyEdge ⟨3/16, 1/8, [0, 0]⟩ (1/2) = [⟨0, 2⟩] ∧
    dutyEdge ⟨3/16, 1/2, [0, 0]⟩ (1/8) = [⟨0, -2⟩] ∧ dutyEdge ⟨3/4, 1/8, [0, 0]⟩ (1/2) = [] := by
  decide +kernel

theorem test_witness_PulseUnit : busyBlock.pulse1.osc.Inv ∧ (0 : ℚ) < 1/8 ∧ (1/8 : ℚ) < 1 ∧ (0 : ℚ) < 5/4 :=
  ⟨busyBlock_inv.osc1, by decide +kernel, by decide +kernel, by decide +kernel⟩

theorem test_witness_Triangle : (1 : Timer) ≠ 0 ∧ (⟨0, 0, 3/8⟩ : Triangle).timer = 0 ∧
    (0 : ℚ) ≤ 3/8 ∧ (3/8 : ℚ) < 1 ∧ (0 : ℚ) ≤ 0 ∧ (0 : ℚ) ≤ 1/2 ∧ (1/2 : ℚ) < 1 := by decide +kernel

theorem test_witness_Lfsr : (1 : BitVec 15) ≠ 0 ∧ (0x7FFF : BitVec 15) ≠ 0 := by decide

theorem test_witness_NoiseClock : 0 < noisePeriod Config.defaults 0x00 ∧
    0 ≤ (⟨0, ⟨false, 0, 0⟩, 1, 0⟩ : Noise).count ∧ 1 < (⟨0, ⟨false, 0, 0⟩, 1, 4⟩ : Noise).count := by
  decide +kernel

theorem test_witness_Mixer : busyBlock.Inv := busyBlock_inv

theorem test_witness_Filter : Config.defaults.Wf ∧
    (∀ i : Fin 9, (Vector.replicate 9 (7 : ℚ))[i] = 7) ∧
    (∀ i : Fin 9, (#v[1, 0, 0, 0, 0, 0, 0, 0, 0] : Vector ℚ 9)[i] = if i.val = 0 then 1 else 0) ∧
    (∀ i : Fin 9, (#v[0, 0, 0, 0, 0, 0, 0, 0, 1] : Vector ℚ 9)[i] = if i.val = 8 then 1 else 0) :=
  ⟨Config.defaults_wf, by decide +kernel, by decide +kernel, by decide +kernel⟩

theorem test_witness_SilenceEmpties : (∃ t, exec .silence busy = .next t) ∧ (3 : Nat) ≤ 3 :=
  ⟨⟨_, rfl⟩, le_rfl⟩

theorem test_witness_Xorshift : (1 : BitVec 64) ≠ 0 := by decide

theorem test_witness_Quantiser : (32767 : ℚ) ≤ 32767 ∧ (-32768 : ℚ) ≤ -32768 ∧
    ((0 : ℚ) ≤ 32766 ∧ (32766 : ℚ) < 32767) ∧ ((-32768 : ℚ) < -32767 ∧ (-32767 : ℚ) < 0) := by decide +kernel

theorem test_witness_AssemblerLines : (AsmLine.write 255 255).fits = true ∧
    (AsmLine.render 1073741823).fits = true ∧ (AsmLine.pulse 2 3 1 1 15).fits = true ∧
    (AsmLine.sweep 1 1 7 1 7).fits = true ∧ (AsmLine.ptimer 2 2047 31).fits = true ∧
    (AsmLine.ttimer 2047 31).fits = true ∧ (AsmLine.noise 1 1 15 1 15 31).fits = true ∧
    (AsmLine.enable 255).fits = true ∧ (AsmLine.fsmode 1).fits = true ∧
    (AsmLine.noise 1 1 15 1 15 31).expand =
      [.writeNoiseCtrl 0x3F, .writeNoisePeriod 0x8F, .writeNoiseLen 0xF8] := by decide

theorem test_witness_Ptimer : (AsmLine.ptimer 1 2047 31).fits = true ∧
    (AsmLine.ptimer 2 0 0).fits = true := by decide

end Sys2Proof.Tests
end

section
/-! The invariant of spec/10_state.md R46 to R48 at reset and through every step (O9, O10), and the
reset table itself (O8). -/

namespace Sys2Proof.Machine

/-! What stays nonzero: the noise register and the dither state -/

theorem lfsrStep_getLsbD_of_lt (c : Config) (mode : Bool) (l : BitVec 15) {i : Nat} (hi : i < 14) :
    (lfsrStep c mode l).getLsbD i = l.getLsbD (i + 1) := by
  simp [lfsrStep, hi, Nat.add_comm]

theorem lfsrStep_getLsbD_top (c : Config) (mode : Bool) (l : BitVec 15) :
    (lfsrStep c mode l).getLsbD 14 =
      (l.getLsbD 0 ^^ l.getLsbD (if mode then c.noiseTap1 else c.noiseTap0)) := by
  cases mode <;> simp [lfsrStep]

/-- The feedback of a register with no bit above bit 0 is bit 0 itself (spec/42_oscillators.md
R320). -/
theorem lfsrStep_ne_zero (mode : Bool) {l : BitVec 15} (hl : l ≠ 0) :
    lfsrStep Config.defaults mode l ≠ 0 := by
  intro hz
  have hbit : ∀ i, (lfsrStep Config.defaults mode l).getLsbD i = false := by simp [hz]
  have hhigh : ∀ i < 14, l.getLsbD (i + 1) = false := fun i hi => by
    rw [← lfsrStep_getLsbD_of_lt Config.defaults mode l hi, hbit]
  have htap : l.getLsbD (if mode then Config.defaults.noiseTap1 else Config.defaults.noiseTap0) =
      false := by
    cases mode
    · exact hhigh 0 (by decide)
    · exact hhigh 5 (by decide)
  have hlow : l.getLsbD 0 = false := by
    have htop := hbit 14
    rwa [lfsrStep_getLsbD_top, htap, Bool.xor_false] at htop
  apply hl
  apply BitVec.eq_of_getLsbD_eq
  rintro (_ | i) hi
  · simpa using hlow
  · simpa using hhigh i (by omega)

theorem lfsrStep_iterate_ne_zero (mode : Bool) {l : BitVec 15} (hl : l ≠ 0) :
    ∀ k, (lfsrStep Config.defaults mode)^[k] l ≠ 0
  | 0 => hl
  | k + 1 => by
    rw [Function.iterate_succ_apply']
    exact lfsrStep_ne_zero mode (lfsrStep_iterate_ne_zero mode hl k)

/-- A word equal to its own left shift has no lowest set bit. -/
theorem xor_shiftLeft_ne_zero {x : BitVec 64} (hx : x ≠ 0) {n : Nat} (hn : 0 < n) :
    x ^^^ (x <<< n) ≠ 0 := by
  intro h
  have hself : x = x <<< n := BitVec.xor_eq_zero_iff.mp h
  apply hx
  have hbit : ∀ i, x.getLsbD i = false := by
    intro i
    induction i using Nat.strong_induction_on with
    | _ i ih =>
      rw [hself, BitVec.getLsbD_shiftLeft]
      by_cases hin : i < n
      · simp [hin]
      · simp [ih (i - n) (by omega)]
  apply BitVec.eq_of_getLsbD_eq
  intro i _
  simpa using hbit i

/-- A right shift lowers any word but 0. -/
theorem xor_shiftRight_ne_zero {x : BitVec 64} (hx : x ≠ 0) {n : Nat} (hn : 0 < n) :
    x ^^^ (x >>> n) ≠ 0 := by
  intro h
  have hself : x.toNat = x.toNat / 2 ^ n := by
    rw [← Nat.shiftRight_eq_div_pow, ← BitVec.toNat_ushiftRight]
    exact congrArg BitVec.toNat (BitVec.xor_eq_zero_iff.mp h)
  have hpos : 0 < x.toNat := by
    rw [Nat.pos_iff_ne_zero]
    exact fun h0 => hx (BitVec.eq_of_toNat_eq h0)
  have hlt : x.toNat / 2 ^ n < x.toNat := Nat.div_lt_self hpos (Nat.one_lt_two_pow (by omega))
  omega

theorem xorshift64_ne_zero {x : BitVec 64} (hx : x ≠ 0) : xorshift64 Config.defaults x ≠ 0 :=
  xor_shiftLeft_ne_zero
    (xor_shiftRight_ne_zero (xor_shiftLeft_ne_zero hx (by decide)) (by decide)) (by decide)

/-! One clock of the noise and of a pulse oscillator -/

/-- A noise clock steps the register some number of times and leaves the count above 0
(spec/42_oscillators.md R321). -/
theorem noiseClock_spec (r2 : Byte) (n : Noise) :
    (∃ k, (noiseClock Config.defaults r2 n).lfsr =
      (lfsrStep Config.defaults (noiseMode r2))^[k] n.lfsr) ∧
    0 < (noiseClock Config.defaults r2 n).count := by
  have hperiod : 0 < noisePeriod Config.defaults r2 := by linarith [noisePeriod_defaults r2]
  obtain ⟨k, hk, heq, -, hstop⟩ := noiseReload_eq Config.defaults (noiseMode r2)
    (noisePeriod Config.defaults r2)
    (reloadPasses (noisePeriod Config.defaults r2) (n.count - 1)) { n with count := n.count - 1 }
  rw [noiseClock, heq]
  refine ⟨⟨k, rfl⟩, ?_⟩
  rcases hk.lt_or_eq with hlt | rfl
  · exact hstop hlt
  · exact reloadPasses_enough hperiod

theorem PulseOsc.Inv.pulseAdvance {o : PulseOsc} (h : o.Inv) (r0 : Byte) (t : Timer) :
    (Machine.pulseAdvance Config.defaults o (dutyOf Config.defaults r0)
      (pulseDelta Config.defaults t)).Inv where
  phase_nonneg := frac_nonneg _
  phase_lt := frac_lt_one _
  duty_mem := dutyOf_mem _ r0
  ring_zero := pulseAdvance_ring h.ring_zero _ (pulseDelta_pos t)

/-! The invariant through one output sample -/

/-- The sequencer after the start of an output sample (spec/41_apu_sequencer.md R230, R231). -/
theorem frameCountdown_fs (c : Config) (b : Block) :
    (frameCountdown c b).fs =
      if 1 < b.fs.countdown then ⟨b.fs.step, b.fs.countdown - 1⟩
      else ⟨(b.fs.step + 1) % (stepTable c b).length, c.fsPeriod⟩ := by
  split
  · rw [frameCountdown_of_gt ‹_›]
  · rw [frameCountdown_of_le (by omega), fsTick_fs]
    rfl

theorem Block.Inv.frameCountdown {b : Block} (h : b.Inv) :
    (Machine.frameCountdown Config.defaults b).Inv where
  step_lt := by
    rw [stepTable_congr (frameCountdown_regs Config.defaults b), frameCountdown_fs]
    split
    · exact h.step_lt
    · exact Nat.mod_lt _ (stepTable_length_pos b)
  countdown_pos := by
    rw [frameCountdown_fs]
    split
    · exact Nat.sub_pos_of_lt ‹_›
    · exact Config.defaults_wf.fsPeriod_pos
  countdown_le := by
    rw [frameCountdown_fs]
    split
    · exact (Nat.sub_le _ _).trans h.countdown_le
    · exact le_rfl
  osc1 := by simpa using h.osc1
  osc2 := by simpa using h.osc2
  tri_nonneg := by simpa using h.tri_nonneg
  tri_lt := by simpa using h.tri_lt
  lfsr_ne := by simpa using h.lfsr_ne
  count_nonneg := by simpa using h.count_nonneg
  rng_ne := by simpa using h.rng_ne

theorem Block.Inv.internalSample {b : Block} (h : b.Inv) (a : Amplitudes) :
    (Machine.internalSample Config.defaults a b).Inv where
  step_lt := h.step_lt
  countdown_pos := h.countdown_pos
  countdown_le := h.countdown_le
  osc1 := h.osc1.pulseAdvance _ _
  osc2 := h.osc2.pulseAdvance _ _
  tri_nonneg := frac_nonneg _
  tri_lt := frac_lt_one _
  lfsr_ne := by
    obtain ⟨⟨k, hk⟩, -⟩ := noiseClock_spec b.noiseModePeriod b.noise
    rw [internalSample_noise, hk]
    exact lfsrStep_iterate_ne_zero _ h.lfsr_ne k
  count_nonneg := by
    obtain ⟨-, hpos⟩ := noiseClock_spec b.noiseModePeriod b.noise
    exact hpos.le
  rng_ne := h.rng_ne

/-- What every internal sample keeps, all the internal samples of an output sample keep. -/
theorem internalSamples_keeps {P : Block → Prop} {c : Config} {a : Amplitudes}
    (hP : ∀ b, P b → P (internalSample c a b)) (n : Nat) {b : Block} (h : P b) :
    P (internalSamples c a n b) := by
  induction n generalizing b with
  | zero => exact h
  | succ n ih => exact ih (hP b h)

/-- What every output sample keeps, any number of them keep. -/
theorem afterSamples_keeps {P : Block → Prop} {c : Config} (hP : ∀ b, P b → P (sampleState c b))
    (n : Nat) {b : Block} (h : P b) : P (afterSamples c n b) := by
  induction n generalizing b with
  | zero => exact h
  | succ n ih => exact ih (hP b h)

theorem Block.Inv.synthesise {b : Block} (h : b.Inv) :
    (Machine.synthesise Config.defaults b).Inv :=
  internalSamples_keeps (fun _ hb => hb.internalSample _) _ h.frameCountdown

theorem Block.Inv.quantiseState {b : Block} (h : b.Inv) (y : ℚ) :
    (Machine.quantiseState Config.defaults y b).Inv :=
  { h with rng_ne := xorshift64_ne_zero (xorshift64_ne_zero h.rng_ne) }

theorem Block.Inv.sampleState {b : Block} (h : b.Inv) :
    (Machine.sampleState Config.defaults b).Inv :=
  h.synthesise.quantiseState _

theorem Block.Inv.afterSamples {b : Block} (h : b.Inv) (n : Nat) :
    (Machine.afterSamples Config.defaults n b).Inv :=
  afterSamples_keeps (fun _ hb => hb.sampleState) n h

/-! The invariant through the register writes -/

@[simp] theorem Block.store_pulse (b : Block) (r d : Byte) (p : PulseIx) :
    (b.store r d).pulse p = b.pulse p := by
  cases p <;> simp

theorem Block.store_frameMode (b : Block) {r : Byte} (hr : r ≠ 0x17) (d : Byte) :
    (b.store r d).frameMode = b.frameMode := by
  have hne : r.toNat ≠ (0x17 : Fin 24).val := fun h => hr (BitVec.eq_of_toNat_eq h)
  exact (b.store_regs_get r d 0x17).trans (if_neg hne)

/-- Only the frame-sequencer register moves the step table's end (spec/41_apu_sequencer.md R231). -/
theorem Block.Inv.store {b : Block} (h : b.Inv) {r : Byte} (hr : r ≠ 0x17) (d : Byte) :
    (b.store r d).Inv where
  step_lt := by
    rw [stepTable, b.store_frameMode hr d, b.store_fs r d]
    exact h.step_lt
  countdown_pos := by simpa using h.countdown_pos
  countdown_le := by simpa using h.countdown_le
  osc1 := by simpa using h.osc1
  osc2 := by simpa using h.osc2
  tri_nonneg := by simpa using h.tri_nonneg
  tri_lt := by simpa using h.tri_lt
  lfsr_ne := by simpa using h.lfsr_ne
  count_nonneg := by simpa using h.count_nonneg
  rng_ne := by simpa using h.rng_ne

/-- Of a pulse channel the invariant reads the oscillator alone. -/
theorem Block.Inv.setPulse {b : Block} (h : b.Inv) {p : PulseIx} {x : Pulse}
    (hx : x.osc = (b.pulse p).osc) : (b.setPulse p x).Inv := by
  cases p with
  | p1 => exact { h with osc1 := hx ▸ h.osc1 }
  | p2 => exact { h with osc2 := hx ▸ h.osc2 }

/-- Of the triangle the invariant reads the phase alone. -/
theorem Block.Inv.setTri {b : Block} (h : b.Inv) {x : Triangle} (hx : x.phase = b.tri.phase) :
    ({ b with tri := x } : Block).Inv :=
  { h with tri_nonneg := hx ▸ h.tri_nonneg, tri_lt := hx ▸ h.tri_lt }

/-- Of the noise channel the invariant reads the register and the count alone. -/
theorem Block.Inv.setNoise {b : Block} (h : b.Inv) {x : Noise} (hl : x.lfsr = b.noise.lfsr)
    (hc : x.count = b.noise.count) : ({ b with noise := x } : Block).Inv :=
  { h with lfsr_ne := hl ▸ h.lfsr_ne, count_nonneg := hc ▸ h.count_nonneg }

theorem Block.Inv.writePulseSweep {b : Block} (h : b.Inv) (p : PulseIx) (d : Byte) :
    (Machine.writePulseSweep p d b).Inv :=
  (h.store (by cases p <;> decide) d).setPulse (by simp [sweepReloadSet])

theorem Block.Inv.writePulseTlo {b : Block} (h : b.Inv) (p : PulseIx) (d : Byte) :
    (Machine.writePulseTlo p d b).Inv :=
  (h.store (by cases p <;> decide) d).setPulse (by simp)

theorem Block.Inv.writePulseLen {b : Block} (h : b.Inv) (c : Config) (p : PulseIx) (d : Byte) :
    (Machine.writePulseLen c p d b).Inv :=
  (h.store (by cases p <;> decide) d).setPulse (by simp)

theorem Block.Inv.writeTriTlo {b : Block} (h : b.Inv) (d : Byte) :
    (Machine.writeTriTlo d b).Inv :=
  (h.store (by decide) d).setTri (by simp)

theorem Block.Inv.writeTriLen {b : Block} (h : b.Inv) (c : Config) (d : Byte) :
    (Machine.writeTriLen c d b).Inv :=
  (h.store (by decide) d).setTri (by simp)

theorem Block.Inv.writeNoiseLen {b : Block} (h : b.Inv) (c : Config) (d : Byte) :
    (Machine.writeNoiseLen c d b).Inv :=
  (h.store (by decide) d).setNoise (by simp) (by simp)

/-- The write that may shorten the step table also sends the step index to 0
(spec/40_apu_writes.md R191). -/
theorem Block.Inv.writeFrame {b : Block} (h : b.Inv) (d : Byte) : (Machine.writeFrame d b).Inv where
  step_lt := stepTable_length_pos _
  countdown_pos := h.countdown_pos
  countdown_le := h.countdown_le
  osc1 := h.osc1
  osc2 := h.osc2
  tri_nonneg := h.tri_nonneg
  tri_lt := h.tri_lt
  lfsr_ne := h.lfsr_ne
  count_nonneg := h.count_nonneg
  rng_ne := h.rng_ne

/-! The invariant through a command and a step -/

/-- Every decoded command is well-formed (spec/30_encoding.md R131 to R133). -/
theorem wf_of_decode {w : Word} {i : Instr} (h : decode w = .ok i) : i.wf = true := by
  unfold decode at h
  split_ifs at h <;> cases h
  · exact (decodeWrite_wf_encode _ _).1
  · simpa [Instr.wf] using (wordCount w).isLt
  · rfl

/-- A command touches neither the queue nor the buffers handed back. -/
theorem exec_frame {i : Instr} {s t : State} (h : exec i s = .next t) :
    t.pending = s.pending ∧ t.returned = s.returned := by
  cases i with
  | render n =>
    obtain ⟨-, rfl⟩ := execRender_cases h
    exact ⟨rfl, rfl⟩
  | _ => cases h; exact ⟨rfl, rfl⟩

theorem exec_keeps_blockInv {i : Instr} {s t : State} (hw : i.wf = true) (h : s.blk.Inv)
    (he : exec i s = .next t) : t.blk.Inv := by
  cases i with
  | writeP1Ctrl d | writeP2Ctrl d | writeTriCtrl d | writeTriUnused d | writeNoiseCtrl d
  | writeNoiseUnused d | writeNoisePeriod d | write0x14 d | writeStatus d | write0x16 d =>
    cases he
    rw [State.mapBlock_blk]
    exact h.store (by decide) d
  | writeDmcUnused r d =>
    have hr : r ≠ 0x17 := by
      rintro rfl
      exact absurd hw (by simp [Instr.wf])
    cases he
    exact h.store hr d
  | silence =>
    cases he
    rw [State.mapBlock_blk]
    exact h.store (by decide) 0x00
  | writeP1Sweep d | writeP2Sweep d =>
    cases he
    rw [State.mapBlock_blk]
    exact h.writePulseSweep _ d
  | writeP1Tlo d | writeP2Tlo d =>
    cases he
    rw [State.mapBlock_blk]
    exact h.writePulseTlo _ d
  | writeP1Len d | writeP2Len d =>
    cases he
    rw [State.mapBlock_blk]
    exact h.writePulseLen _ _ d
  | writeTriTlo d => cases he; exact h.writeTriTlo d
  | writeTriLen d => cases he; exact h.writeTriLen _ d
  | writeNoiseLen d => cases he; exact h.writeNoiseLen _ d
  | writeFrame d => cases he; exact h.writeFrame d
  | writeIgn18 r d | writeIgn20 r d | writeIgn40 r d | writeIgn80 r d => cases he; exact h
  | render n =>
    obtain ⟨-, rfl⟩ := execRender_cases he
    rw [renderInto_blk, renderFrom_blk]
    exact h.afterSamples n

theorem exec_keeps_out_wf {i : Instr} {s t : State} (h : s.out.wf = true)
    (he : exec i s = .next t) : t.out.wf = true := by
  cases i with
  | render n =>
    obtain ⟨hle, rfl⟩ := execRender_cases he
    exact renderFrom_wf _ _ _ _ h (by simpa using hle)
  | _ => rwa [exec_out_of_not_lends rfl he]

theorem State.Inv.exec {i : Instr} {s t : State} (h : s.Inv) (hw : i.wf = true)
    (he : Machine.exec i s = .next t) : t.Inv := by
  obtain ⟨hpending, hreturned⟩ := exec_frame he
  exact ⟨exec_keeps_blockInv hw h.blk he, exec_keeps_out_wf h.out he, hpending ▸ h.pending,
    hreturned ▸ h.returned⟩

theorem State.Inv.accept {s : State} {call : Call} {rest : List Call} (h : s.Inv)
    (hp : s.pending = call :: rest) : (s.accept call rest).Inv where
  blk := h.blk
  out := h.pending call (by simp [hp])
  pending := fun c hc => h.pending c (by rw [hp]; exact List.mem_cons_of_mem _ hc)
  returned := h.returned

theorem State.Inv.handBack {s : State} (h : s.Inv) (i : Instr) : (s.handBack i).Inv := by
  cases hl : lendsBuffer i with
  | false => rwa [State.handBack_of_not_lends hl]
  | true =>
    rw [State.handBack_of_lends hl]
    refine { h with returned := fun m hm => ?_ }
    rcases List.mem_append.mp hm with hm | hm
    · exact h.returned m hm
    · rw [List.mem_singleton.mp hm]; exact h.out

/-- Settles O10: the command a step runs is well-formed, and taking it from the queue, running it and
handing its buffer back each keep the invariant. -/
theorem stepKeepsTheInvariant : Obligations.StepKeepsTheInvariant := by
  intro s s' h hs
  obtain ⟨-, ⟨-, rfl⟩ | ⟨call, rest, i, t, hp, hd, he, rfl⟩⟩ := step_cases hs
  · exact h
  · exact ((h.accept hp).exec (wf_of_decode hd) he).handBack i

/-! Reset -/

/-- Settles O8, part by part of the reset table (spec/10_state.md R53). -/
theorem resetStateIsTheTable : Obligations.ResetStateIsTheTable := by
  have hpulse : ∀ p ∈ [State.reset.blk.pulse1, State.reset.blk.pulse2], p = Pulse.reset := by
    simp [State.reset, Block.reset]
  refine ⟨by decide, fun p hp => ?_, rfl, rfl, rfl, rfl, rfl, rfl, rfl, ?_, rfl, rfl⟩
  · rw [hpulse p hp]
    exact ⟨rfl, rfl, rfl, rfl, rfl, rfl, rfl, fun x hx => List.eq_of_mem_replicate hx⟩
  · simp [State.reset, Block.reset]

theorem PulseOsc.reset_inv : Pulse.reset.osc.Inv where
  phase_nonneg := le_rfl
  phase_lt := zero_lt_one
  duty_mem := by simp [Pulse.reset]
  ring_zero := rfl

theorem Block.reset_inv : Block.reset.Inv where
  step_lt := stepTable_length_pos _
  countdown_pos := Config.defaults_wf.fsPeriod_pos
  countdown_le := le_rfl
  osc1 := PulseOsc.reset_inv
  osc2 := PulseOsc.reset_inv
  tri_nonneg := le_rfl
  tri_lt := zero_lt_one
  lfsr_ne := Config.defaults_wf.lfsrSeed_ne
  count_nonneg := le_rfl
  rng_ne := Config.defaults_wf.ditherSeed_ne

theorem Block.reset_signalBound : Block.reset.SignalBound where
  hb_le := fun i => by simp [Block.reset]
  dc_le := by simp [Block.reset]

/-- Settles O9: the block's part is `Block.reset_inv`, and no buffer is listed at reset. -/
theorem resetMeetsTheInvariant : Obligations.ResetMeetsTheInvariant :=
  ⟨⟨Block.reset_inv, rfl, by simp [State.reset], by simp [State.reset]⟩, Block.reset_signalBound⟩

end Sys2Proof.Machine
end

section
/-! The block with no register written is silent up to its dither (O54). -/

namespace Sys2Proof.Machine

/-- No channel enabled, and nothing left in the filter and the DC estimate. -/
structure Block.Silent (b : Block) : Prop where
  status : b.status = 0
  hb : b.hb = Vector.replicate 9 0
  dc : b.dc = 0

/-- With no channel enabled every gate is closed (spec/41_apu_sequencer.md R270, R271). -/
theorem amplitudes_of_status_zero {b : Block} (h : b.status = 0) (c : Config) :
    amplitudes c b = ⟨0, 0, 0, 0⟩ := by
  simp [amplitudes, amplitudePulse, amplitudeTri, amplitudeNoise, gatePulse, gateTri, gateNoise,
    pulseEnable, enableP1, enableP2, enableTri, enableNoise, h]

/-- Zero amplitudes mix to 0 whatever the oscillators give (spec/43_mixer.md R351). -/
@[simp] theorem mixSum_zero (c : Config) (b : Block) : mixSum c ⟨0, 0, 0, 0⟩ b = 0 := by
  simp [mixSum]

theorem pushSample_zero : pushSample (Vector.replicate 9 0) 0 = Vector.replicate 9 0 := rfl

theorem decimate_zero (c : Config) : decimate c (Vector.replicate 9 0) = 0 := by
  rw [decimate, Vector.toList_replicate]
  refine List.sum_eq_zero fun x hx => ?_
  obtain ⟨i, hi, rfl⟩ := List.mem_iff_getElem.mp hx
  rw [List.getElem_zipWith, List.getElem_replicate, mul_zero]

theorem Block.Silent.frameCountdown {b : Block} (h : b.Silent) (c : Config) :
    (Machine.frameCountdown c b).Silent where
  status := by rw [Block.status, frameCountdown_regs]; exact h.status
  hb := by simpa using h.hb
  dc := by simpa using h.dc

theorem Block.Silent.internalSample {b : Block} (h : b.Silent) (c : Config) :
    (Machine.internalSample c ⟨0, 0, 0, 0⟩ b).Silent :=
  { h with hb := by rw [internalSample_hb, mixSum_zero, h.hb, pushSample_zero] }

theorem Block.Silent.synthesise {b : Block} (h : b.Silent) (c : Config) :
    (Machine.synthesise c b).Silent := by
  rw [Machine.synthesise, amplitudes_of_status_zero (h.frameCountdown c).status]
  exact internalSamples_keeps (fun _ hb => hb.internalSample c) _ (h.frameCountdown c)

theorem Block.Silent.sampleState {b : Block} (h : b.Silent) (c : Config) :
    (Machine.sampleState c b).Silent :=
  have hs := h.synthesise c
  { hs with
    dc := by
      rw [Machine.sampleState, quantiseState_dc, hs.hb, hs.dc, decimate_zero]
      simp [dcTrack] }

/-- Of the values from -1 up to 1 only -1 itself is not cut to 0 (spec/43_mixer.md R366). -/
theorem clipTrunc_of_mem {v : ℚ} (h0 : -1 ≤ v) (h1 : v < 1) :
    clipTrunc v = if v = -1 then -1 else 0 := by
  have hclamp : clamp v (-32768) 32767 = v := by
    rw [clamp, max_eq_left (by linarith), min_eq_left (by linarith)]
  rw [clipTrunc, hclamp]
  by_cases hneg : v < 0
  · rw [trunc_of_neg hneg]
    split_ifs with he
    · rw [he, Int.ceil_neg, Int.floor_one]
    · have hlt : -1 < v := lt_of_le_of_ne h0 (Ne.symm he)
      exact Int.ceil_eq_iff.mpr ⟨by norm_num; exact hlt, by exact_mod_cast hneg.le⟩
  · rw [trunc_of_nonneg (by linarith), if_neg (by rintro rfl; norm_num at hneg)]
    exact Int.floor_eq_iff.mpr ⟨by simpa using hneg, by simpa using h1⟩

theorem Block.Silent.sampleValue {b : Block} (h : b.Silent) :
    Machine.sampleValue Config.defaults b = if tpdf Config.defaults b.rng = -1 then -1 else 0 := by
  have hs := h.synthesise Config.defaults
  have hv : Machine.sampleValue Config.defaults b = clipTrunc (tpdf Config.defaults b.rng) := by
    simp [Machine.sampleValue, quantiseValue, dcTrack, hs.hb, h.dc, decimate_zero]
  obtain ⟨hlow, hhigh⟩ := tpdf_bounds b.rng
  rw [hv, clipTrunc_of_mem hlow hhigh]

theorem Block.reset_silent : Block.reset.Silent := ⟨by decide, rfl, rfl⟩

/-- Settles O54: the block is silent at reset and every output sample keeps it so. -/
theorem unwrittenBlockIsSilent : Obligations.UnwrittenBlockIsSilent := fun n =>
  (afterSamples_keeps (fun _ h => h.sampleState _) n Block.reset_silent).sampleValue

end Sys2Proof.Machine
end

section
/-! The command word (spec/30_encoding.md R130 to R135): the round trip in both directions (O1, O2), the
opcode table's rows (O3), the words that spell no command (O4) and written-out words (O6). -/

namespace Sys2Proof

/-! Rows that cover a range of registers (R154) -/

theorem decodeWrite_dmc {r : Byte} (d : Byte) (h0 : 0x10 ≤ r.toNat) (h1 : r.toNat < 0x14) :
    decodeWrite r d = .writeDmcUnused r d := by
  unfold decodeWrite
  interval_cases r.toNat <;> rfl

theorem decodeWrite_ign18 {r : Byte} (d : Byte) (h0 : 0x18 ≤ r.toNat) (h1 : r.toNat < 0x20) :
    decodeWrite r d = .writeIgn18 r d := by
  rw [decodeWrite_ignored d h0, decodeIgnored, if_pos h1]

theorem decodeWrite_ign20 {r : Byte} (d : Byte) (h0 : 0x20 ≤ r.toNat) (h1 : r.toNat < 0x40) :
    decodeWrite r d = .writeIgn20 r d := by
  rw [decodeWrite_ignored d (by omega), decodeIgnored, if_neg (by omega), if_pos h1]

theorem decodeWrite_ign40 {r : Byte} (d : Byte) (h0 : 0x40 ≤ r.toNat) (h1 : r.toNat < 0x80) :
    decodeWrite r d = .writeIgn40 r d := by
  rw [decodeWrite_ignored d (by omega), decodeIgnored, if_neg (by omega), if_neg (by omega),
    if_pos h1]

theorem decodeWrite_ign80 {r : Byte} (d : Byte) (h0 : 0x80 ≤ r.toNat) :
    decodeWrite r d = .writeIgn80 r d := by
  rw [decodeWrite_ignored d (by omega), decodeIgnored, if_neg (by omega), if_neg (by omega),
    if_neg (by omega)]

/-! The round trip -/

/-- Settles O1, row by row: a WRITE's word gives back its register and data, a RENDER's its count. -/
theorem decodeOfEncodeIsTheCommand : Obligations.DecodeOfEncodeIsTheCommand := by
  intro i hw
  cases i with
  | writeDmcUnused r d =>
    obtain ⟨h0, h1⟩ := of_decide_eq_true hw
    rw [encode, decode_writeWord, decodeWrite_dmc d h0 h1]
  | writeIgn18 r d =>
    obtain ⟨h0, h1⟩ := of_decide_eq_true hw
    rw [encode, decode_writeWord, decodeWrite_ign18 d h0 h1]
  | writeIgn20 r d =>
    obtain ⟨h0, h1⟩ := of_decide_eq_true hw
    rw [encode, decode_writeWord, decodeWrite_ign20 d h0 h1]
  | writeIgn40 r d =>
    obtain ⟨h0, h1⟩ := of_decide_eq_true hw
    rw [encode, decode_writeWord, decodeWrite_ign40 d h0 h1]
  | writeIgn80 r d =>
    rw [encode, decode_writeWord, decodeWrite_ign80 d (of_decide_eq_true hw)]
  | render n =>
    rw [encode, decode_renderWord, BitVec.toNat_ofNat, Nat.mod_eq_of_lt (of_decide_eq_true hw)]
  | silence => exact decode_silenceWord
  | _ => exact decode_writeWord _ _

/-- A word of kind SILENCE with nothing below is the SILENCE word (R133). -/
theorem eq_silenceWord {w : Word} (hk : wordKind w = 0b10#2) (hz : wordCount w = 0) :
    w = silenceWord := by
  have h1 := congrArg BitVec.toNat hk
  have h2 := congrArg BitVec.toNat hz
  rw [wordKind_toNat] at h1
  rw [wordCount_toNat] at h2
  have h3 : silenceWord.toNat = 2 ^ 31 := by decide
  simp at h1 h2
  apply BitVec.eq_of_toNat_eq
  omega

/-- All that the decoder can accept: the word of a WRITE, of a RENDER or of SILENCE. -/
theorem decode_cases {w : Word} {i : Instr} (h : decode w = .ok i) :
    (∃ r d, w = writeWord r d ∧ i = decodeWrite r d) ∨
      (∃ n, w = renderWord n ∧ i = .render n.toNat) ∨ (w = silenceWord ∧ i = .silence) := by
  unfold decode at h
  split_ifs at h with hk0 hz hk1 hk2 hz <;> cases h
  · exact .inl ⟨_, _, (writeWord_fields hk0 hz).symm, rfl⟩
  · exact .inr (.inl ⟨_, (renderWord_count hk1).symm, rfl⟩)
  · exact .inr (.inr ⟨eq_silenceWord hk2 hz, rfl⟩)

/-- Settles O2: the three kinds of word the decoder accepts are each the encoding of their command. -/
theorem encodeOfDecodeIsTheWord : Obligations.EncodeOfDecodeIsTheWord := by
  intro w i h
  obtain ⟨r, d, rfl, rfl⟩ | ⟨n, rfl, rfl⟩ | ⟨rfl, rfl⟩ := decode_cases h
  · exact decodeWrite_wf_encode r d
  · exact ⟨decide_eq_true n.isLt, by rw [encode, BitVec.ofNat_toNat, BitVec.setWidth_eq]⟩
  · exact ⟨rfl, rfl⟩

/-! The rows of the opcode table (R135) -/

/-- Any two rows disagree in a bit that both of them fix. -/
theorem opcodeRows_disjoint : ∀ k l : Fin opcodeRows.length,
    opcodeRows[k].2 &&& opcodeRows[l].1 = opcodeRows[l].2 &&& opcodeRows[k].1 → k = l := by
  decide +kernel

theorem matchesRow_iff {w : Word} {row : Word × Word} :
    matchesRow w row = true ↔ w &&& row.1 = row.2 := beq_iff_eq

/-- Two rows that one word matches agree in every bit that both of them fix. -/
theorem and_eq_of_matchesRow {w : Word} {r r' : Word × Word} (h : matchesRow w r = true)
    (h' : matchesRow w r' = true) : r.2 &&& r'.1 = r'.2 &&& r.1 := by
  rw [← matchesRow_iff.mp h, ← matchesRow_iff.mp h', BitVec.and_assoc, BitVec.and_assoc,
    BitVec.and_comm r.1]

theorem row_unique {w : Word} {k l : Nat} {r r' : Word × Word} (hk : opcodeRows[k]? = some r)
    (hl : opcodeRows[l]? = some r') (h : matchesRow w r = true) (h' : matchesRow w r' = true) :
    k = l := by
  obtain ⟨hklt, rfl⟩ := List.getElem?_eq_some_iff.mp hk
  obtain ⟨hllt, rfl⟩ := List.getElem?_eq_some_iff.mp hl
  exact congrArg Fin.val (opcodeRows_disjoint ⟨k, hklt⟩ ⟨l, hllt⟩ (and_eq_of_matchesRow h h'))

/-- The word of every well-formed command matches its own row. -/
theorem encode_matches_row : ∀ i : Instr, Laws.FixedBits.Statement i
  | .writeP1Ctrl d => Laws.FixedBits.writeP1Ctrl d
  | .writeP1Sweep d => Laws.FixedBits.writeP1Sweep d
  | .writeP1Tlo d => Laws.FixedBits.writeP1Tlo d
  | .writeP1Len d => Laws.FixedBits.writeP1Len d
  | .writeP2Ctrl d => Laws.FixedBits.writeP2Ctrl d
  | .writeP2Sweep d => Laws.FixedBits.writeP2Sweep d
  | .writeP2Tlo d => Laws.FixedBits.writeP2Tlo d
  | .writeP2Len d => Laws.FixedBits.writeP2Len d
  | .writeTriCtrl d => Laws.FixedBits.writeTriCtrl d
  | .writeTriUnused d => Laws.FixedBits.writeTriUnused d
  | .writeTriTlo d => Laws.FixedBits.writeTriTlo d
  | .writeTriLen d => Laws.FixedBits.writeTriLen d
  | .writeNoiseCtrl d => Laws.FixedBits.writeNoiseCtrl d
  | .writeNoiseUnused d => Laws.FixedBits.writeNoiseUnused d
  | .writeNoisePeriod d => Laws.FixedBits.writeNoisePeriod d
  | .writeNoiseLen d => Laws.FixedBits.writeNoiseLen d
  | .writeDmcUnused r d => Laws.FixedBits.writeDmcUnused r d
  | .write0x14 d => Laws.FixedBits.write0x14 d
  | .writeStatus d => Laws.FixedBits.writeStatus d
  | .write0x16 d => Laws.FixedBits.write0x16 d
  | .writeFrame d => Laws.FixedBits.writeFrame d
  | .writeIgn18 r d => Laws.FixedBits.writeIgn18 r d
  | .writeIgn20 r d => Laws.FixedBits.writeIgn20 r d
  | .writeIgn40 r d => Laws.FixedBits.writeIgn40 r d
  | .writeIgn80 r d => Laws.FixedBits.writeIgn80 r d
  | .render n => Laws.FixedBits.render n
  | .silence => Laws.FixedBits.silence

theorem decode_matches_row {w : Word} {i : Instr} (h : decode w = .ok i) :
    ∃ row, opcodeRows[i.rowIndex]? = some row ∧ matchesRow w row = true := by
  obtain ⟨hw, rfl⟩ := encodeOfDecodeIsTheWord w i h
  exact encode_matches_row i hw

theorem exec_decodeIgnored (reg data : Byte) (s : Machine.State) :
    Machine.exec (decodeIgnored reg data) s = .next s := by
  unfold decodeIgnored
  split_ifs <;> rfl

/-- Settles O3: the rows are pairwise disjoint, a legal word is the encoding of its command, and all four
WRITE_IGN rows answer the same state. -/
theorem legalWordMatchesOnlyItsRow : Obligations.LegalWordMatchesOnlyItsRow :=
  ⟨fun _ _ _ _ _ => row_unique, fun _ _ => decode_matches_row, fun reg data h =>
    ⟨by rw [decode_writeWord, decodeWrite_ignored data h], exec_decodeIgnored reg data⟩⟩

/-! The words that spell no command (R134) -/

theorem decode_error_iff (w : Word) : (∃ why, decode w = .error why) ↔
    wordKind w = 0b11#2 ∨ (wordKind w = 0b00#2 ∧ wordWriteZero w ≠ 0) ∨
      (wordKind w = 0b10#2 ∧ wordCount w ≠ 0) := by
  unfold decode
  obtain hk | hk | hk | hk := wordKind_cases w
  · by_cases hz : wordWriteZero w = 0#14 <;> simp [hk, hz]
  · simp [hk]
  · by_cases hz : wordCount w = 0#30 <;> simp [hk, hz]
  · simp [hk]

/-- What every row fixes: the two kind bits, and all the bits that must be zero in a word of that kind. -/
def FixesKind (row : Word × Word) : Prop :=
  wordKind row.1 = BitVec.allOnes 2 ∧
    ((wordKind row.2 = 0b00#2 ∧ wordWriteZero row.1 = BitVec.allOnes 14 ∧ wordWriteZero row.2 = 0) ∨
      wordKind row.2 = 0b01#2 ∨
      (wordKind row.2 = 0b10#2 ∧ wordCount row.1 = BitVec.allOnes 30 ∧ wordCount row.2 = 0))

theorem opcodeRows_fixesKind : opcodeRows.Forall FixesKind := by
  unfold FixesKind
  decide +kernel

/-- A field that a row fixes entirely is the row's own in every word that matches it. -/
theorem extractLsb'_of_matchesRow {w : Word} {row : Word × Word} (h : matchesRow w row = true)
    {start len : Nat} (hm : row.1.extractLsb' start len = BitVec.allOnes len) :
    w.extractLsb' start len = row.2.extractLsb' start len := by
  rw [← matchesRow_iff.mp h, BitVec.extractLsb'_and, hm, BitVec.and_allOnes]

theorem not_decode_error_of_matchesRow {w : Word} {row : Word × Word} (hr : row ∈ opcodeRows)
    (h : matchesRow w row = true) : ¬ ∃ why, decode w = .error why := by
  obtain ⟨hm, hkind⟩ := List.forall_iff_forall_mem.mp opcodeRows_fixesKind row hr
  have hk : wordKind w = wordKind row.2 := extractLsb'_of_matchesRow h hm
  rw [decode_error_iff, hk]
  obtain ⟨h2, hmz, hz⟩ | h2 | ⟨h2, hmz, hz⟩ := hkind
  · have hw : wordWriteZero w = wordWriteZero row.2 := extractLsb'_of_matchesRow h hmz
    simp [h2, hw, hz]
  · simp [h2]
  · have hw : wordCount w = wordCount row.2 := extractLsb'_of_matchesRow h hmz
    simp [h2, hw, hz]

theorem decode_error_iff_toNat (w : Word) : (∃ why, decode w = .error why) ↔
    w.toNat / 2 ^ 30 = 3 ∨ (w.toNat / 2 ^ 30 = 0 ∧ w.toNat / 2 ^ 16 % 2 ^ 14 ≠ 0) ∨
      (w.toNat / 2 ^ 30 = 2 ∧ w.toNat % 2 ^ 30 ≠ 0) := by
  rw [decode_error_iff, ← wordKind_toNat, ← wordWriteZero_toNat, ← wordCount_toNat]
  simp only [ne_eq, ← BitVec.toNat_inj]
  rfl

theorem decode_error_iff_no_row (w : Word) :
    (∃ why, decode w = .error why) ↔ ∀ row ∈ opcodeRows, matchesRow w row = false := by
  constructor
  · intro he row hr
    by_contra hm
    exact not_decode_error_of_matchesRow hr (by simpa using hm) he
  · intro hno
    cases hd : decode w with
    | error why => exact ⟨why, rfl⟩
    | ok i =>
      obtain ⟨row, hrow, hm⟩ := decode_matches_row hd
      rw [hno row (List.mem_of_getElem? hrow)] at hm
      contradiction

/-- Settles O4: the decoder's errors by the fields of the word, by the rows of the table, and through a
step. -/
theorem illegalWordsAreRefused : Obligations.IllegalWordsAreRefused := by
  refine ⟨decode_error_iff_toNat, decode_error_iff_no_row, fun s call rest why hm hp hd => ?_⟩
  have hs : Machine.step s = .refused (.illegalCommand why call.word) := by
    simp [Machine.step, hm, hp, hd]
  exact ⟨hs, by simp [Machine.advance, hs, Machine.State.markRefused]⟩

/-- Settles O6: each word is decoded by evaluation. -/
theorem specWordsDecode : Obligations.SpecWordsDecode := by
  unfold Obligations.SpecWordsDecode
  decide

end Sys2Proof
end

section
/-! Register bits that rendering does not read (spec/30_encoding.md R140, R155; O37): each part of an
output sample gives the same with such bits replaced. -/

namespace Sys2Proof.Machine

/-! A field of a register byte, from the bits that are read -/

/-- A bit within the mask is the same in two bytes that agree under it. -/
theorem getLsbD_eq_of_and_eq {x y m : Byte} (h : x &&& m = y &&& m) {i : Nat}
    (hm : m.getLsbD i = true) : x.getLsbD i = y.getLsbD i := by
  simpa [hm] using congrArg (BitVec.getLsbD · i) h

/-- A field within the mask is the same in two bytes that agree under it. -/
theorem extractLsb'_eq_of_and_eq {x y m : Byte} (h : x &&& m = y &&& m) {start len : Nat}
    (hm : m.extractLsb' start len = BitVec.allOnes len) :
    x.extractLsb' start len = y.extractLsb' start len := by
  simpa [BitVec.extractLsb'_and, hm] using congrArg (BitVec.extractLsb' start len) h

theorem eq_of_and_ff_eq {x y : Byte} (h : x &&& 0xFF = y &&& 0xFF) : x = y := by
  simpa using extractLsb'_eq_of_and_eq h (start := 0) (len := 8) (by decide)

/-! A block with another register file -/

/-- The block with its register file replaced. -/
def Block.withRegs (b : Block) (x : Vector Byte 24) : Block := { b with regs := x }

@[simp] theorem Block.withRegs_regs (b : Block) (x : Vector Byte 24) : (b.withRegs x).regs = x := rfl
@[simp] theorem Block.withRegs_pulse1 (b : Block) (x : Vector Byte 24) :
    (b.withRegs x).pulse1 = b.pulse1 := rfl
@[simp] theorem Block.withRegs_pulse2 (b : Block) (x : Vector Byte 24) :
    (b.withRegs x).pulse2 = b.pulse2 := rfl
@[simp] theorem Block.withRegs_pulse (b : Block) (x : Vector Byte 24) (p : PulseIx) :
    (b.withRegs x).pulse p = b.pulse p := by cases p <;> rfl
@[simp] theorem Block.withRegs_tri (b : Block) (x : Vector Byte 24) : (b.withRegs x).tri = b.tri := rfl
@[simp] theorem Block.withRegs_noise (b : Block) (x : Vector Byte 24) :
    (b.withRegs x).noise = b.noise := rfl

/-- The register file `x` agrees with the block's in every bit that rendering reads. -/
def Block.ReadsAs (b : Block) (x : Vector Byte 24) : Prop :=
  ∀ r : Fin 24, x[r] &&& readBits r = b.regs[r] &&& readBits r

theorem Block.ReadsAs.of_regs_eq {a b : Block} {x : Vector Byte 24} (h : b.ReadsAs x)
    (he : a.regs = b.regs) : a.ReadsAs x := by
  rw [Block.ReadsAs, he]
  exact h

namespace Block.ReadsAs

variable {b : Block} {x : Vector Byte 24} (h : b.ReadsAs x)
include h

/-! What is read of the register file -/

theorem pulseCtrl (p : PulseIx) : (b.withRegs x).pulseCtrl p = b.pulseCtrl p := by
  cases p with
  | p1 => exact eq_of_and_ff_eq (h 0x00)
  | p2 => exact eq_of_and_ff_eq (h 0x04)

theorem pulseSweep (p : PulseIx) : (b.withRegs x).pulseSweep p = b.pulseSweep p := by
  cases p with
  | p1 => exact eq_of_and_ff_eq (h 0x01)
  | p2 => exact eq_of_and_ff_eq (h 0x05)

theorem triHalt : Machine.triHalt (b.withRegs x).triCtrl = Machine.triHalt b.triCtrl :=
  getLsbD_eq_of_and_eq (h 0x08) (by decide)

theorem noiseLoopHalt : loopHalt (b.withRegs x).noiseCtrl = loopHalt b.noiseCtrl :=
  getLsbD_eq_of_and_eq (h 0x0C) (by decide)

theorem noiseConstVolume : constVolume (b.withRegs x).noiseCtrl = constVolume b.noiseCtrl :=
  getLsbD_eq_of_and_eq (h 0x0C) (by decide)

theorem noiseVolume : volume (b.withRegs x).noiseCtrl = volume b.noiseCtrl :=
  extractLsb'_eq_of_and_eq (h 0x0C) (by decide)

theorem noiseMode :
    Machine.noiseMode (b.withRegs x).noiseModePeriod = Machine.noiseMode b.noiseModePeriod :=
  getLsbD_eq_of_and_eq (h 0x0E) (by decide)

theorem noisePeriodIndex : Machine.noisePeriodIndex (b.withRegs x).noiseModePeriod =
    Machine.noisePeriodIndex b.noiseModePeriod :=
  extractLsb'_eq_of_and_eq (h 0x0E) (by decide)

theorem pulseEnable (p : PulseIx) :
    Machine.pulseEnable (b.withRegs x).status p = Machine.pulseEnable b.status p := by
  cases p with
  | p1 => exact getLsbD_eq_of_and_eq (h 0x15) (by decide)
  | p2 => exact getLsbD_eq_of_and_eq (h 0x15) (by decide)

theorem enableTri : Machine.enableTri (b.withRegs x).status = Machine.enableTri b.status :=
  getLsbD_eq_of_and_eq (h 0x15) (by decide)

theorem enableNoise : Machine.enableNoise (b.withRegs x).status = Machine.enableNoise b.status :=
  getLsbD_eq_of_and_eq (h 0x15) (by decide)

theorem fiveStep : Machine.fiveStep (b.withRegs x).frameMode = Machine.fiveStep b.frameMode :=
  getLsbD_eq_of_and_eq (h 0x17) (by decide)

/-! The frame sequencer -/

theorem stepTable (c : Config) : Machine.stepTable c (b.withRegs x) = Machine.stepTable c b := by
  rw [Machine.stepTable, h.fiveStep, Machine.stepTable]

theorem clockPulseEnvelope (p : PulseIx) :
    Machine.clockPulseEnvelope (b.withRegs x) p = Machine.clockPulseEnvelope b p := by
  simp [Machine.clockPulseEnvelope, h.pulseCtrl]

theorem clockNoiseEnvelope (e : Envelope) :
    clockEnvelope e (b.withRegs x).noiseCtrl = clockEnvelope e b.noiseCtrl := by
  simp only [clockEnvelope, h.noiseVolume, h.noiseLoopHalt]

theorem clockPulseHalf (p : PulseIx) :
    Machine.clockPulseHalf (b.withRegs x) p = Machine.clockPulseHalf b p := by
  simp [Machine.clockPulseHalf, h.pulseCtrl, h.pulseSweep]

theorem stepQuarter :
    Machine.stepQuarter (b.withRegs x) = (Machine.stepQuarter b).withRegs x := by
  simp only [Machine.stepQuarter, h.clockPulseEnvelope, h.clockNoiseEnvelope]
  rfl

theorem stepHalf : Machine.stepHalf (b.withRegs x) = (Machine.stepHalf b).withRegs x := by
  simp only [Machine.stepHalf, h.clockPulseHalf, h.triHalt, h.noiseLoopHalt]
  rfl

theorem performStep (a : FrameStep) :
    Machine.performStep a (b.withRegs x) = (Machine.performStep a b).withRegs x := by
  cases a with
  | quarter => exact h.stepQuarter
  | half => exact h.stepHalf
  | null => rfl

theorem fsTick (c : Config) : Machine.fsTick c (b.withRegs x) = (Machine.fsTick c b).withRegs x := by
  rw [Machine.fsTick, h.stepTable]
  exact Block.ReadsAs.performStep
    (b := { b with fs := ⟨(b.fs.step + 1) % (Machine.stepTable c b).length, b.fs.countdown⟩ }) h _

theorem frameCountdown (c : Config) :
    Machine.frameCountdown c (b.withRegs x) = (Machine.frameCountdown c b).withRegs x := by
  rcases Nat.lt_or_ge 1 b.fs.countdown with hgt | hle
  · rw [frameCountdown_of_gt hgt, frameCountdown_of_gt (b := b.withRegs x) hgt]
    rfl
  · rw [frameCountdown_of_le hle, frameCountdown_of_le (b := b.withRegs x) hle]
    exact Block.ReadsAs.fsTick (b := { b with fs := ⟨b.fs.step, c.fsPeriod⟩ }) h c

/-! Gates and amplitudes -/

theorem noiseEffectiveVolume (e : Envelope) :
    effectiveVolume e (b.withRegs x).noiseCtrl = effectiveVolume e b.noiseCtrl := by
  simp only [effectiveVolume, h.noiseConstVolume, h.noiseVolume]

theorem amplitudes (c : Config) : Machine.amplitudes c (b.withRegs x) = Machine.amplitudes c b := by
  simp [Machine.amplitudes, amplitudePulse, amplitudeTri, amplitudeNoise, gatePulse, gateTri,
    gateNoise, h.pulseEnable, h.pulseCtrl, h.enableTri, h.enableNoise, h.noiseEffectiveVolume]

/-! Internal samples -/

theorem advancePulse (c : Config) (p : PulseIx) :
    Machine.advancePulse c (b.withRegs x) p = Machine.advancePulse c b p := by
  simp [Machine.advancePulse, h.pulseCtrl]

theorem noiseClock (c : Config) (n : Noise) : Machine.noiseClock c (b.withRegs x).noiseModePeriod n =
    Machine.noiseClock c b.noiseModePeriod n := by
  simp only [Machine.noiseClock, noisePeriod, h.noiseMode, h.noisePeriodIndex]

theorem mixSum (c : Config) (a : Amplitudes) :
    Machine.mixSum c a (b.withRegs x) = Machine.mixSum c a b := by
  simp [Machine.mixSum, unitPulse, h.pulseCtrl]

theorem internalSample (c : Config) (a : Amplitudes) :
    Machine.internalSample c a (b.withRegs x) = (Machine.internalSample c a b).withRegs x := by
  simp only [Machine.internalSample, h.advancePulse, h.noiseClock, h.mixSum, Block.withRegs_noise]
  rfl

theorem internalSamples (c : Config) (a : Amplitudes) (n : Nat) :
    Machine.internalSamples c a n (b.withRegs x) = (Machine.internalSamples c a n b).withRegs x := by
  induction n generalizing b with
  | zero => rfl
  | succ n ih =>
    rw [Machine.internalSamples, h.internalSample, ih (h.of_regs_eq (internalSample_regs c a b)),
      Machine.internalSamples]

/-! Output samples -/

theorem synthesise (c : Config) :
    Machine.synthesise c (b.withRegs x) = (Machine.synthesise c b).withRegs x := by
  have hb := h.of_regs_eq (frameCountdown_regs c b)
  simp only [Machine.synthesise, h.frameCountdown, hb.amplitudes, hb.internalSamples]

theorem sampleValue (c : Config) :
    Machine.sampleValue c (b.withRegs x) = Machine.sampleValue c b := by
  simp only [Machine.sampleValue, h.synthesise]
  rfl

theorem sampleState (c : Config) :
    Machine.sampleState c (b.withRegs x) = (Machine.sampleState c b).withRegs x := by
  simp only [Machine.sampleState, h.synthesise]
  rfl

theorem sampleValues (c : Config) (n : Nat) :
    Machine.sampleValues c n (b.withRegs x) = Machine.sampleValues c n b := by
  induction n generalizing b with
  | zero => rfl
  | succ n ih =>
    rw [Machine.sampleValues, h.sampleValue, h.sampleState, ih (h.of_regs_eq (sampleState_regs c b)),
      Machine.sampleValues]

theorem afterSamples (c : Config) (n : Nat) :
    Machine.afterSamples c n (b.withRegs x) = (Machine.afterSamples c n b).withRegs x := by
  induction n generalizing b with
  | zero => rfl
  | succ n ih =>
    rw [Machine.afterSamples, h.sampleState, ih (h.of_regs_eq (sampleState_regs c b)),
      Machine.afterSamples]

theorem sameReadBits : (b.withRegs x).SameReadBits b := ⟨h, rfl⟩

end Block.ReadsAs

/-- Settles O37: the two blocks differ in the register file alone, and output samples keep that file. -/
theorem unreadBitsAreInvisible : Obligations.UnreadBitsAreInvisible := by
  intro a b ⟨hregs, hrest⟩ n
  have h : b.ReadsAs a.regs := hregs
  have ha : a = b.withRegs a.regs := hrest
  generalize a.regs = x at h ha
  subst ha
  refine ⟨h.sampleValues _ n, ?_⟩
  rw [h.afterSamples]
  exact (h.of_regs_eq (afterSamples_regs _ n b)).sameReadBits

end Sys2Proof.Machine
end

section
/-! The assembler's lines (spec/30_encoding.md R136, R137): their words (O55), and what PTIMER's two writes
load (O56). -/

namespace Sys2Proof.Machine

/-! Fields put together as numbers -/

/-- A field shifted above the bits of another is added to it. -/
theorem shiftLeft_or_eq_add {n low : Nat} (high : Nat) (h : low < 2 ^ n) :
    high <<< n ||| low = high * 2 ^ n + low := by
  rw [← Nat.shiftLeft_add_eq_or_of_lt h, Nat.shiftLeft_eq]

theorem ctrlByte_eq {halt const vol : Nat} (duty : Nat) (hh : halt < 2) (hc : const < 2)
    (hv : vol < 16) : duty <<< 6 ||| halt <<< 5 ||| const <<< 4 ||| vol =
      duty * 64 + halt * 32 + const * 16 + vol := by
  rw [Nat.or_assoc, Nat.or_assoc, shiftLeft_or_eq_add const (by omega),
    shiftLeft_or_eq_add halt (by omega), shiftLeft_or_eq_add duty (by omega)]
  omega

theorem noiseCtrlByte_eq {const vol : Nat} (halt : Nat) (hc : const < 2) (hv : vol < 16) :
    halt <<< 5 ||| const <<< 4 ||| vol = halt * 32 + const * 16 + vol := by
  rw [Nat.or_assoc, shiftLeft_or_eq_add const (by omega), shiftLeft_or_eq_add halt (by omega)]
  omega

theorem sweepByte_eq {period neg shift : Nat} (en : Nat) (hp : period < 8) (hn : neg < 2)
    (hs : shift < 8) : en <<< 7 ||| period <<< 4 ||| neg <<< 3 ||| shift =
      en * 128 + period * 16 + neg * 8 + shift := by
  rw [Nat.or_assoc, Nat.or_assoc, shiftLeft_or_eq_add neg (by omega),
    shiftLeft_or_eq_add period (by omega), shiftLeft_or_eq_add en (by omega)]
  omega

theorem modeByte_eq {idx : Nat} (mode : Nat) (hi : idx < 16) :
    mode <<< 7 ||| idx = mode * 128 + idx :=
  shiftLeft_or_eq_add mode (by omega)

theorem timerLowByte_eq (t : Nat) : t &&& 0xFF = t % 256 := Nat.and_two_pow_sub_one_eq_mod t 8

theorem lengthByte_eq {t : Nat} (len : Nat) (ht : t < 2048) :
    len <<< 3 ||| t >>> 8 = len * 8 + t / 256 := by
  rw [Nat.shiftRight_eq_div_pow]
  exact shiftLeft_or_eq_add len (by omega)

/-! When the operands fit (R137) -/

@[simp] theorem fits_write_iff (reg data : Nat) :
    (AsmLine.write reg data).fits = true ↔ reg < 256 ∧ data < 256 := by
  simp [AsmLine.fits]

@[simp] theorem fits_render_iff (count : Nat) :
    (AsmLine.render count).fits = true ↔ count < 2 ^ 30 := decide_eq_true_iff

@[simp] theorem fits_pulse_iff (p duty halt const vol : Nat) :
    (AsmLine.pulse p duty halt const vol).fits = true ↔
      (p = 1 ∨ p = 2) ∧ duty < 4 ∧ halt < 2 ∧ const < 2 ∧ vol < 16 := by
  simp [AsmLine.fits, and_assoc]

@[simp] theorem fits_sweep_iff (p en period neg shift : Nat) :
    (AsmLine.sweep p en period neg shift).fits = true ↔
      (p = 1 ∨ p = 2) ∧ en < 2 ∧ period < 8 ∧ neg < 2 ∧ shift < 8 := by
  simp [AsmLine.fits, and_assoc]

@[simp] theorem fits_ptimer_iff (p t len : Nat) :
    (AsmLine.ptimer p t len).fits = true ↔ (p = 1 ∨ p = 2) ∧ t < 2048 ∧ len < 32 := by
  simp [AsmLine.fits, and_assoc]

@[simp] theorem fits_ttimer_iff (t len : Nat) :
    (AsmLine.ttimer t len).fits = true ↔ t < 2048 ∧ len < 32 := by
  simp [AsmLine.fits]

@[simp] theorem fits_noise_iff (halt const vol mode idx len : Nat) :
    (AsmLine.noise halt const vol mode idx len).fits = true ↔
      halt < 2 ∧ const < 2 ∧ vol < 16 ∧ mode < 2 ∧ idx < 16 ∧ len < 32 := by
  simp [AsmLine.fits, and_assoc]

@[simp] theorem fits_enable_iff (mask : Nat) : (AsmLine.enable mask).fits = true ↔ mask < 256 :=
  decide_eq_true_iff

@[simp] theorem fits_fsmode_iff (m : Nat) : (AsmLine.fsmode m).fits = true ↔ m < 2 :=
  decide_eq_true_iff

/-! The words of a line -/

/-- The words of the commands a line stands for, as numbers. -/
def lineWords (l : AsmLine) : List Nat := l.expand.map fun i => (encode i).toNat

theorem asmPulseBase_le (p : Nat) : asmPulseBase p ≤ 4 := by
  unfold asmPulseBase
  split_ifs <;> omega

theorem encode_asmWrite_toNat {reg data : Nat} (hr : reg < 256) (hd : data < 256) :
    (encode (asmWrite reg data)).toNat = reg * 256 + data := by
  rw [asmWrite, (decodeWrite_wf_encode _ _).2, writeWord_toNat, BitVec.toNat_ofNat,
    BitVec.toNat_ofNat, Nat.mod_eq_of_lt hr, Nat.mod_eq_of_lt hd]

theorem lineWords_write {reg data : Nat} (h : (AsmLine.write reg data).fits = true) :
    lineWords (.write reg data) = [reg * 256 + data] := by
  obtain ⟨hr, hd⟩ := (fits_write_iff ..).mp h
  simp only [lineWords, AsmLine.expand, List.map, encode_asmWrite_toNat hr hd]

theorem lineWords_render {n : Nat} (h : (AsmLine.render n).fits = true) :
    lineWords (.render n) = [2 ^ 30 + n] := by
  simp only [lineWords, AsmLine.expand, List.map, encode, renderWord_toNat, BitVec.toNat_ofNat,
    Nat.mod_eq_of_lt ((fits_render_iff n).mp h)]

theorem lineWords_pulse {p duty halt const vol : Nat}
    (h : (AsmLine.pulse p duty halt const vol).fits = true) :
    lineWords (.pulse p duty halt const vol) =
      [asmPulseBase p * 256 + (duty * 64 + halt * 32 + const * 16 + vol)] := by
  obtain ⟨-, hd, hh, hc, hv⟩ := (fits_pulse_iff ..).mp h
  have hb := asmPulseBase_le p
  simp only [lineWords, AsmLine.expand, List.map, ctrlByte_eq duty hh hc hv]
  rw [encode_asmWrite_toNat (by omega) (by omega)]

theorem lineWords_sweep {p en period neg shift : Nat}
    (h : (AsmLine.sweep p en period neg shift).fits = true) :
    lineWords (.sweep p en period neg shift) =
      [(asmPulseBase p + 1) * 256 + (en * 128 + period * 16 + neg * 8 + shift)] := by
  obtain ⟨-, he, hp, hn, hs⟩ := (fits_sweep_iff ..).mp h
  have hb := asmPulseBase_le p
  simp only [lineWords, AsmLine.expand, List.map, sweepByte_eq en hp hn hs]
  rw [encode_asmWrite_toNat (by omega) (by omega)]

theorem lineWords_ptimer {p t len : Nat} (h : (AsmLine.ptimer p t len).fits = true) :
    lineWords (.ptimer p t len) =
      [(asmPulseBase p + 2) * 256 + t % 256, (asmPulseBase p + 3) * 256 + (len * 8 + t / 256)] := by
  obtain ⟨-, ht, hl⟩ := (fits_ptimer_iff ..).mp h
  have hb := asmPulseBase_le p
  simp only [lineWords, AsmLine.expand, List.map, timerLowByte_eq, lengthByte_eq len ht]
  rw [encode_asmWrite_toNat (by omega) (by omega), encode_asmWrite_toNat (by omega) (by omega)]

theorem lineWords_ttimer {t len : Nat} (h : (AsmLine.ttimer t len).fits = true) :
    lineWords (.ttimer t len) = [0x0A * 256 + t % 256, 0x0B * 256 + (len * 8 + t / 256)] := by
  obtain ⟨ht, hl⟩ := (fits_ttimer_iff ..).mp h
  simp only [lineWords, AsmLine.expand, List.map, timerLowByte_eq, lengthByte_eq len ht]
  rw [encode_asmWrite_toNat (by omega) (by omega), encode_asmWrite_toNat (by omega) (by omega)]

theorem lineWords_noise {halt const vol mode idx len : Nat}
    (h : (AsmLine.noise halt const vol mode idx len).fits = true) :
    lineWords (.noise halt const vol mode idx len) =
      [0x0C * 256 + (halt * 32 + const * 16 + vol), 0x0E * 256 + (mode * 128 + idx),
        0x0F * 256 + len * 8] := by
  obtain ⟨hh, hc, hv, hm, hi, hl⟩ := (fits_noise_iff ..).mp h
  simp only [lineWords, AsmLine.expand, List.map, noiseCtrlByte_eq halt hc hv, modeByte_eq mode hi]
  rw [Nat.shiftLeft_eq, encode_asmWrite_toNat (by omega) (by omega),
    encode_asmWrite_toNat (by omega) (by omega), encode_asmWrite_toNat (by omega) (by omega)]

theorem lineWords_enable {mask : Nat} (h : (AsmLine.enable mask).fits = true) :
    lineWords (.enable mask) = [0x15 * 256 + mask] := by
  have hm := (fits_enable_iff mask).mp h
  simp only [lineWords, AsmLine.expand, List.map]
  rw [encode_asmWrite_toNat (by omega) hm]

theorem lineWords_fsmode {m : Nat} (h : (AsmLine.fsmode m).fits = true) :
    lineWords (.fsmode m) = [0x17 * 256 + m * 128] := by
  have hm := (fits_fsmode_iff m).mp h
  simp only [lineWords, AsmLine.expand, List.map, Nat.shiftLeft_eq]
  rw [encode_asmWrite_toNat (by omega) (by omega)]

theorem asmWrite_wf (reg data : Nat) : (asmWrite reg data).wf = true :=
  (decodeWrite_wf_encode _ _).1

/-- A line whose operands fit stands for WRITEs, which are well-formed, or for a RENDER of a count that
fits, or for SILENCE. -/
theorem expand_wf {l : AsmLine} (hf : l.fits = true) : ∀ i ∈ l.expand, i.wf = true := by
  cases l with
  | render count => simpa [AsmLine.expand, Instr.wf] using hf
  | silence => simp [AsmLine.expand, Instr.wf]
  | nop => simp [AsmLine.expand, Instr.wf]
  | _ => simp [AsmLine.expand, asmWrite_wf]

/-- Settles O55, line by line: the bytes of a line are the sums of their fields, and each command's word is
its number. -/
theorem assemblerLinesSpellTheirWords : Obligations.AssemblerLinesSpellTheirWords :=
  ⟨fits_write_iff, fun _ _ => lineWords_write, fits_render_iff, fun _ => lineWords_render,
    ⟨rfl, by decide⟩, ⟨rfl, rfl, by decide⟩,
    fits_pulse_iff, fun _ _ _ _ _ => lineWords_pulse,
    fits_sweep_iff, fun _ _ _ _ _ => lineWords_sweep,
    fits_ptimer_iff, fun _ _ _ => lineWords_ptimer,
    fits_ttimer_iff, fun _ _ => lineWords_ttimer,
    fits_noise_iff, fun _ _ _ _ _ _ => lineWords_noise,
    fits_enable_iff, fun _ => lineWords_enable,
    fits_fsmode_iff, fun _ => lineWords_fsmode, fun _ => expand_wf⟩

/-! PTIMER's two writes -/

/-- A pulse channel's timer-low write and then its 4th-register write (spec/40_apu_writes.md R173, R174). -/
theorem writePulseLen_writePulseTlo_pulse (c : Config) (p : PulseIx) (lo hi : Byte) (b : Block) :
    (writePulseLen c p hi (writePulseTlo p lo b)).pulse p =
      { b.pulse p with
        timer := withTimerHigh (withTimerLow (b.pulse p).timer lo) hi
        length := lengthLoad c hi
        env := envStart (b.pulse p).env } := by
  cases p <;> rfl

/-- A low byte and a high part written one after the other are the whole timer, whatever it held. -/
theorem withTimerHigh_withTimerLow_toNat (t : Timer) (lo hi : Byte) :
    (withTimerHigh (withTimerLow t lo) hi).toNat = hi.toNat % 8 * 256 + lo.toNat := by
  have hlo := lo.isLt
  rw [withTimerHigh_toNat, withTimerLow_toNat]
  omega

theorem lengthOf_getElem? (c : Config) (li : BitVec 5) :
    c.lengthTable[li.toNat]? = some (lengthOf c li) :=
  Vector.getElem?_eq_getElem li.isLt

theorem lengthIndex_toNat (r : Byte) : (lengthIndex r).toNat = r.toNat / 8 := by
  have := r.isLt
  simp only [lengthIndex, BitVec.extractLsb'_toNat, Nat.shiftRight_eq_div_pow]
  omega

/-- PTIMER's two commands are the two writes of its pulse channel. -/
theorem execAll_expand_ptimer {p t len : Nat} (hp : p = 1 ∨ p = 2) (s : State) :
    execAll (AsmLine.ptimer p t len).expand s = .next
      (s.mapBlock fun b =>
        writePulseLen Config.defaults (if p = 1 then .p1 else .p2)
          (BitVec.ofNat 8 (len <<< 3 ||| t >>> 8))
          (writePulseTlo (if p = 1 then .p1 else .p2) (BitVec.ofNat 8 (t &&& 0xFF)) b)) := by
  obtain rfl | rfl := hp <;> rfl

/-- Settles O56: the 4th-register byte carries `len` above the timer's high part, and the two writes join
the timer's two parts. -/
theorem ptimerLoadsTimerAndLength : Obligations.PtimerLoadsTimerAndLength := by
  intro p t len s hf
  obtain ⟨hp, ht, hl⟩ := (fits_ptimer_iff ..).mp hf
  refine ⟨_, execAll_expand_ptimer hp s, ?_⟩
  generalize (if p = 1 then PulseIx.p1 else PulseIx.p2) = q
  rw [State.mapBlock_blk, writePulseLen_writePulseTlo_pulse, timerLowByte_eq, lengthByte_eq len ht]
  have hhi : (BitVec.ofNat 8 (len * 8 + t / 256)).toNat = len * 8 + t / 256 := by
    rw [BitVec.toNat_ofNat]
    omega
  refine ⟨?_, ?_, rfl⟩
  · rw [withTimerHigh_withTimerLow_toNat, hhi, BitVec.toNat_ofNat]
    omega
  · have hli : (lengthIndex (BitVec.ofNat 8 (len * 8 + t / 256))).toNat = len := by
      rw [lengthIndex_toNat, hhi]
      omega
    have hget := lengthOf_getElem? Config.defaults (lengthIndex (BitVec.ofNat 8 (len * 8 + t / 256)))
    rwa [hli] at hget

end Sys2Proof.Machine
end

section
/-! The register writes (spec/40_apu_writes.md R170 to R192; O12 to O20): what each stores, what it loads
besides, and that all else stays. -/

namespace Sys2Proof.Machine

/-! Plain stores (R171, R175, R179, R180, R183 to R185, R187 to R190) -/

/-- The register file after a store, by the stored register's number. -/
theorem Block.store_regs_get_of_toNat (b : Block) {r : Byte} {n : Nat} (hr : r.toNat = n) (d : Byte)
    (k : Fin 24) : (b.store r d).regs[k] = if k.val = n then d else b.regs[k] := by
  rw [b.store_regs_get, hr, if_congr eq_comm rfl rfl]

/-- The command's whole meaning is a store of `d` in register number `n`. -/
def Stores (i : Instr) (n : Nat) (d : Byte) : Prop :=
  ∃ r : Byte, r.toNat = n ∧ ∀ s : State, exec i s = .next (s.mapBlock (·.store r d))

/-- A plain store puts its byte in the register file and leaves all else. -/
theorem Stores.exec {i : Instr} {n : Nat} {d : Byte} (h : Stores i n d) (s : State) :
    ∃ t, Machine.exec i s = .next t ∧
      (∀ k : Fin 24, t.blk.regs[k] = if k.val = n then d else s.blk.regs[k]) ∧
      t = { s with blk := { s.blk with regs := t.blk.regs } } ∧
      (∀ a, t.out.read a = s.out.read a) := by
  obtain ⟨r, hr, hexec⟩ := h
  exact ⟨_, hexec s, s.blk.store_regs_get_of_toNat hr d,
    congrArg (fun b => { s with blk := b }) (s.blk.store_eq r d), fun _ => rfl⟩

/-- The plain-store rows that some rule reads. -/
theorem controlWrites_store (d : Byte) :
    ∀ ik ∈ [(Instr.writeP1Ctrl d, 0x00), (.writeP2Ctrl d, 0x04), (.writeTriCtrl d, 0x08),
      (.writeNoiseCtrl d, 0x0C), (.writeNoisePeriod d, 0x0E), (.writeStatus d, 0x15)],
      Stores ik.1 ik.2 d := by
  simp only [List.forall_mem_cons]
  exact ⟨⟨0x00, rfl, fun _ => rfl⟩, ⟨0x04, rfl, fun _ => rfl⟩, ⟨0x08, rfl, fun _ => rfl⟩,
    ⟨0x0C, rfl, fun _ => rfl⟩, ⟨0x0E, rfl, fun _ => rfl⟩, ⟨0x15, rfl, fun _ => rfl⟩, by simp⟩

/-- Settles O13: each of these rows is a plain store. -/
theorem controlWritesStoreAndNothingElse : Obligations.ControlWritesStoreAndNothingElse :=
  fun d s ik hik => (controlWrites_store d ik hik).exec s

/-! Registers no rule reads (R180, R184, R187, R188, R190) -/

/-- Rendering reads no bit of the register with this number. -/
abbrev Unread (n : Nat) : Prop := ∀ k : Fin 24, k.val = n → readBits k = 0x00

theorem unread_dmc {n : Nat} (h0 : 0x10 ≤ n) (h1 : n < 0x14) : Unread n := by
  rintro k rfl
  revert k
  decide

/-- The rows whose byte no rule reads. -/
theorem unusedWrites_store (d : Byte) {r : Byte} (h0 : 0x10 ≤ r.toNat) (h1 : r.toNat < 0x14) :
    ∀ ik ∈ [(Instr.writeTriUnused d, 0x09), (.writeNoiseUnused d, 0x0D),
      (.writeDmcUnused r d, r.toNat), (.write0x14 d, 0x14), (.write0x16 d, 0x16)],
      Stores ik.1 ik.2 d ∧ Unread ik.2 := by
  simp only [List.forall_mem_cons]
  exact ⟨⟨⟨0x09, rfl, fun _ => rfl⟩, by decide⟩,
    ⟨⟨0x0D, rfl, fun _ => rfl⟩, by decide⟩,
    ⟨⟨r, rfl, fun _ => rfl⟩, unread_dmc h0 h1⟩,
    ⟨⟨0x14, rfl, fun _ => rfl⟩, by decide⟩,
    ⟨⟨0x16, rfl, fun _ => rfl⟩, by decide⟩, by simp⟩

/-- A register file with another byte in an unread register reads as the block's own. -/
theorem Unread.readsAs {n : Nat} (h : Unread n) {b : Block} {x : Vector Byte 24} {d : Byte}
    (hx : ∀ k : Fin 24, x[k] = if k.val = n then d else b.regs[k]) : b.ReadsAs x := by
  intro k
  rw [hx k]
  split_ifs with hk
  · simp [h k hk]
  · rfl

/-- Settles O12: the byte goes to a register that rendering reads no bit of. -/
theorem unusedRegisterWritesOnlyStore : Obligations.UnusedRegisterWritesOnlyStore := by
  intro d r s h0 h1 ik hik
  obtain ⟨hstores, hunread⟩ := unusedWrites_store d h0 h1 ik hik
  obtain ⟨t, hexec, hregs, hframe, hout⟩ := hstores.exec s
  have hblk : t.blk = s.blk.withRegs t.blk.regs := congrArg State.blk hframe
  refine ⟨t, hexec, hregs, hframe, hout, fun n => ?_⟩
  rw [hblk]
  exact (hunread.readsAs hregs).sampleValues _ n

/-! Ignored numbers (R192) -/

/-- Settles O20: a WRITE to such a number decodes to one of the four rows. -/
theorem ignoredWritesChangeNothing : Obligations.IgnoredWritesChangeNothing := fun r d s =>
  ⟨rfl, rfl, rfl, rfl, fun h => by rw [decodeWrite_ignored d h, exec_decodeIgnored]⟩

/-! Sweep and timer-low registers (R172, R173, R176, R177, R181) -/

/-- Settles O14. The frame holds by `rfl`: a store to a register of the file updates `regs` alone. -/
theorem sweepWritesSetTheReloadFlag : Obligations.SweepWritesSetTheReloadFlag := fun d s =>
  ⟨⟨_, rfl, s.blk.store_regs_get_of_toNat rfl d, rfl, rfl, fun _ => rfl⟩,
    ⟨_, rfl, s.blk.store_regs_get_of_toNat rfl d, rfl, rfl, fun _ => rfl⟩⟩

/-- Settles O15: the new timer joins the old bits 10:8 and the byte. -/
theorem timerLowWritesKeepTheHighBits : Obligations.TimerLowWritesKeepTheHighBits := fun d s =>
  ⟨⟨_, rfl, s.blk.store_regs_get_of_toNat rfl d, withTimerLow_toNat _ d, rfl, fun _ => rfl⟩,
    ⟨_, rfl, s.blk.store_regs_get_of_toNat rfl d, withTimerLow_toNat _ d, rfl, fun _ => rfl⟩,
    ⟨_, rfl, s.blk.store_regs_get_of_toNat rfl d, withTimerLow_toNat _ d, rfl, fun _ => rfl⟩⟩

/-! 4th registers (R174, R178, R182, R186) -/

/-- The loaded length is the table's entry at data bits 7:3 (spec/41_apu_sequencer.md R250). -/
theorem lengthTable_getElem?_lengthLoad (c : Config) (d : Byte) :
    c.lengthTable[d.toNat / 8]? = some (lengthLoad c d) := by
  rw [← lengthIndex_toNat]
  exact lengthOf_getElem? c (lengthIndex d)

/-- Settles O17: the triangle has no envelope, so only the timer and the length are loaded. -/
theorem triangleLengthWriteLoads : Obligations.TriangleLengthWriteLoads := fun d s =>
  ⟨_, rfl, s.blk.store_regs_get_of_toNat rfl d, withTimerHigh_toNat _ d,
    lengthTable_getElem?_lengthLoad _ d, rfl, fun _ => rfl⟩

/-- Settles O18: the noise channel has no timer, so only the length and the start flag move. -/
theorem noiseLengthWriteLoadsAndStarts : Obligations.NoiseLengthWriteLoadsAndStarts := fun d s =>
  ⟨_, rfl, s.blk.store_regs_get_of_toNat rfl d, lengthTable_getElem?_lengthLoad _ d, rfl, rfl,
    fun _ => rfl⟩

/-- A pulse channel after its 4th-register write. -/
theorem writePulseLen_pulse (c : Config) (p : PulseIx) (d : Byte) (b : Block) :
    (writePulseLen c p d b).pulse p =
      { b.pulse p with
        timer := withTimerHigh (b.pulse p).timer d
        length := lengthLoad c d
        env := envStart (b.pulse p).env } := by
  cases p <;> rfl

theorem stepQuarter_pulse (b : Block) (p : PulseIx) :
    (stepQuarter b).pulse p = clockPulseEnvelope b p := by
  cases p <;> rfl

/-- The start flag that the write sets sends the decay counter to 15 at the next quarter-frame clock
(spec/41_apu_sequencer.md R245). -/
theorem stepQuarter_writePulseLen_decay (c : Config) (p : PulseIx) (d : Byte) (b : Block) :
    ((stepQuarter (writePulseLen c p d b)).pulse p).env.decay = 15 := by
  rw [stepQuarter_pulse, clockPulseEnvelope, writePulseLen_pulse, clockEnvelope_of_start rfl]

theorem withTimerHigh_withTimerHigh (t : Timer) (d d' : Byte) :
    withTimerHigh (withTimerHigh t d) d' = withTimerHigh t d' := by
  apply BitVec.eq_of_toNat_eq
  simp only [withTimerHigh_toNat]
  omega

theorem Block.store_store (b : Block) (r d d' : Byte) : (b.store r d).store r d' = b.store r d' := by
  unfold Block.store
  split_ifs <;> simp

theorem Block.setPulse_store (b : Block) (p : PulseIx) (x : Pulse) (r d : Byte) :
    (b.setPulse p x).store r d = (b.store r d).setPulse p x := by
  unfold Block.store
  split_ifs <;> cases p <;> rfl

theorem Block.setPulse_setPulse (b : Block) (p : PulseIx) (x y : Pulse) :
    (b.setPulse p x).setPulse p y = b.setPulse p y := by
  cases p <;> rfl

/-- A second 4th-register write leaves nothing of the first. -/
theorem writePulseLen_writePulseLen (c : Config) (p : PulseIx) (d d' : Byte) (b : Block) :
    writePulseLen c p d' (writePulseLen c p d b) = writePulseLen c p d' b := by
  rw [writePulseLen, writePulseLen_pulse, withTimerHigh_withTimerHigh, writePulseLen,
    Block.setPulse_store, Block.store_store, Block.setPulse_setPulse]
  rfl

/-- The 4th-register commands are `writePulseLen`, so a second one overrides the first. -/
theorem mapBlock_writePulseLen_override (c : Config) (p : PulseIx) (d d' : Byte) (s : State) :
    (s.mapBlock (writePulseLen c p d)).mapBlock (writePulseLen c p d') =
      s.mapBlock (writePulseLen c p d') :=
  congrArg (fun b => { s with blk := b }) (writePulseLen_writePulseLen c p d d' s.blk)

/-- Settles O16, for each channel by the facts about `writePulseLen`. -/
theorem pulseLengthWritesLoadAndStart : Obligations.PulseLengthWritesLoadAndStart :=
  ⟨rfl, fun d s =>
    ⟨⟨_, rfl, s.blk.store_regs_get_of_toNat rfl d, withTimerHigh_toNat _ d,
        lengthTable_getElem?_lengthLoad _ d, rfl, rfl, fun _ => rfl,
        stepQuarter_writePulseLen_decay _ .p1 d s.blk,
        fun d' => congrArg Host.Outcome.next (mapBlock_writePulseLen_override _ .p1 d d' s)⟩,
      ⟨_, rfl, s.blk.store_regs_get_of_toNat rfl d, withTimerHigh_toNat _ d,
        lengthTable_getElem?_lengthLoad _ d, rfl, rfl, fun _ => rfl,
        stepQuarter_writePulseLen_decay _ .p2 d s.blk,
        fun d' => congrArg Host.Outcome.next (mapBlock_writePulseLen_override _ .p2 d d' s)⟩⟩⟩

/-! Frame-sequencer register (R191) -/

theorem writeFrame_frameMode (d : Byte) (b : Block) : (writeFrame d b).frameMode = d :=
  b.store_regs_get_of_toNat rfl d 0x17

/-- The mode bit as a number (spec/30_encoding.md R152). -/
theorem fiveStep_iff (r : Byte) : fiveStep r = true ↔ r.toNat / 128 = 1 := by
  have := r.isLt
  simp only [fiveStep, BitVec.getLsbD, Nat.testBit_eq_decide_div_mod_eq, decide_eq_true_eq]
  omega

theorem stepTable_writeFrame (c : Config) (d : Byte) (b : Block) :
    stepTable c (writeFrame d b) = if d.toNat / 128 = 1 then c.stepTable5 else c.stepTable4 := by
  rw [stepTable, writeFrame_frameMode, if_congr (fiveStep_iff d) rfl rfl]

/-- Both tables start with Q (spec/41_apu_sequencer.md R232, R233). -/
theorem tickAction_writeFrame (d : Byte) (b : Block) :
    tickAction Config.defaults (writeFrame d b) = .quarter := by
  have hstep : (writeFrame d b).fs.step = 0 := rfl
  rw [tickAction, stepTable_writeFrame, hstep]
  split_ifs <;> rfl

/-- Settles O19: the write selects a table and points at its step 0. -/
theorem frameWriteResetsOnlyTheStep : Obligations.FrameWriteResetsOnlyTheStep := fun d s =>
  ⟨_, rfl, s.blk.store_regs_get_of_toNat rfl d, rfl, rfl, fun _ => rfl,
    tickAction_writeFrame d s.blk, stepTable_writeFrame _ d s.blk⟩

end Sys2Proof.Machine
end

section
/-! The units that the sequencer clocks and the gates they open (spec/41_apu_sequencer.md R234 to R271): what
each step clocks (O28), one clock and a run of clocks of an envelope (O29, O30), a length counter (O31, O32)
and a sweep unit (O33, O34), and the amplitudes (O35). -/

namespace Sys2Proof.Machine

/-! Fields of a register byte as numbers (spec/30_encoding.md R140 to R152) -/

theorem getLsbD_iff_toNat {w : Nat} (x : BitVec w) (k : Nat) :
    x.getLsbD k = true ↔ x.toNat / 2 ^ k % 2 = 1 := by
  rw [BitVec.getLsbD, Nat.testBit_eq_decide_div_mod_eq, decide_eq_true_eq]

theorem volume_toNat (r : Byte) : (volume r).toNat = r.toNat % 16 := by
  simp [volume, BitVec.extractLsb'_toNat]

theorem sweepShift_toNat (r : Byte) : (sweepShift r).toNat = r.toNat % 8 := by
  simp [sweepShift, BitVec.extractLsb'_toNat]

theorem sweepPeriod_toNat (r : Byte) : (sweepPeriod r).toNat = r.toNat / 16 % 8 := by
  simp [sweepPeriod, BitVec.extractLsb'_toNat, Nat.shiftRight_eq_div_pow]

/-- The sweep's enable bit is bit 7 of its byte, as the sequencer's mode bit is of its own (R142, R152). -/
theorem sweepEnable_iff (r : Byte) : sweepEnable r = true ↔ r.toNat / 128 = 1 := fiveStep_iff r

/-- A counter that is not 0 goes down by one, as a number. -/
theorem toNat_sub_one {w : Nat} {x : BitVec w} (h : x ≠ 0) : (x - 1).toNat = x.toNat - 1 := by
  have hpos : 0 < x.toNat := BitVec.toNat_pos_of_ne_zero h
  have hw : 1 < 2 ^ w := by have := x.isLt; omega
  rw [BitVec.toNat_sub_of_le (by rw [BitVec.le_def]; simp [Nat.mod_eq_of_lt hw]; omega)]
  simp [Nat.mod_eq_of_lt hw]

theorem toNat_eq_zero_iff {w : Nat} {x : BitVec w} : x.toNat = 0 ↔ x = 0 := by
  rw [← BitVec.toNat_inj]; simp

/-! Envelope (R245, R247) -/

/-- The decay counter at an underflow of the divider, as a number. -/
theorem clockEnvelope_decay_toNat (decay : BitVec 4) (r0 : Byte) :
    (if decay = 0 then (if loopHalt r0 then 15 else 0) else decay - 1 : BitVec 4).toNat =
      if 0 < decay.toNat then decay.toNat - 1 else if r0.toNat / 32 % 2 = 1 then 15 else 0 := by
  by_cases hd : decay = 0
  · rw [if_pos hd, hd, apply_ite BitVec.toNat, if_neg (by decide : ¬ 0 < (0 : BitVec 4).toNat)]
    exact if_congr (getLsbD_iff_toNat r0 5) rfl rfl
  · rw [if_neg hd, toNat_sub_one hd, if_pos (BitVec.toNat_pos_of_ne_zero hd)]

/-- Settles O29 by the three cases of a clock. -/
theorem envelopeClockFollowsItsCases : Obligations.EnvelopeClockFollowsItsCases := by
  refine ⟨fun e r0 => ?_, fun e hs => ?_⟩
  · cases hs : e.start with
    | true => simp [clockEnvelope_of_start hs, volume_toNat]
    | false =>
      by_cases hd : e.divider = 0
      · simp only [clockEnvelope_of_underflow hs hd, clockEnvelope_decay_toNat, volume_toNat, hd]
        simp
      · simp only [clockEnvelope_of_count hs hd, toNat_sub_one hd, toNat_eq_zero_iff, hd]
        simp
  · simp only [envelopeAfter, clockEnvelope_of_start hs]
    decide

/-- With no start pending and the divider at `k`, the decay counter falls at clock `k + 1`. -/
theorem envelopeAfter_of_divider {k : Nat} (r0 : Byte) {e : Envelope} (hs : e.start = false)
    (hk : e.divider.toNat = k) (hd : e.decay ≠ 0) :
    envelopeAfter r0 (k + 1) e = ⟨false, volume r0, e.decay - 1⟩ := by
  induction k generalizing e with
  | zero =>
    rw [envelopeAfter, clockEnvelope_of_underflow hs (toNat_eq_zero_iff.mp hk), if_neg hd, envelopeAfter]
  | succ k ih =>
    have hne : e.divider ≠ 0 := fun h => by simp [h] at hk
    rw [envelopeAfter, clockEnvelope_of_count hs hne]
    exact ih rfl (by rw [toNat_sub_one hne, hk, Nat.add_sub_cancel]) hd

/-- Settles O30: a divider just reloaded holds V. -/
theorem envelopeDecaysOncePerPeriod : Obligations.EnvelopeDecaysOncePerPeriod := fun _ r0 hs hv hd =>
  envelopeAfter_of_divider r0 hs (congrArg BitVec.toNat hv) (mt toNat_eq_zero_iff.mpr hd.ne')

/-! Length counter (R251, R253) -/

/-- Settles O31. -/
theorem lengthClockStopsAtZero : Obligations.LengthClockStopsAtZero := by
  refine fun l => ⟨?_, by simp [clockLength]⟩
  by_cases hl : l = 0
  · simp [clockLength, hl]
  · rw [clockLength, if_pos ⟨rfl, hl⟩, toNat_sub_one hl]

/-- Settles O32, by induction on the number of clocks. -/
theorem lengthRunsOutAfterItsCount : Obligations.LengthRunsOutAfterItsCount := by
  intro n
  induction n with
  | zero => exact fun l => ⟨rfl, rfl⟩
  | succ n ih =>
    intro l
    obtain ⟨hcount, hhalt⟩ := lengthClockStopsAtZero l
    rw [lengthAfter, lengthAfter, (ih _).1, hcount, hhalt]
    exact ⟨by omega, (ih l).2⟩

/-! Sweep unit (R260 to R264) -/

theorem sweepTarget_eq (p : PulseIx) (r1 : Byte) (t : Timer) :
    sweepTarget p r1 t =
      if r1.toNat / 8 % 2 = 1 then
        (if p = .p1 then (t.toNat : ℤ) - t.toNat / 2 ^ (r1.toNat % 8) - 1
          else t.toNat - t.toNat / 2 ^ (r1.toNat % 8))
      else t.toNat + t.toNat / 2 ^ (r1.toNat % 8) := by
  have hshift : ((t >>> (sweepShift r1).toNat).toNat : ℤ) = t.toNat / 2 ^ (r1.toNat % 8) := by
    rw [BitVec.toNat_ushiftRight, Nat.shiftRight_eq_div_pow, sweepShift_toNat]
    push_cast
    rfl
  simp only [sweepTarget, hshift, sweepNegate, getLsbD_iff_toNat, Nat.reducePow]
  cases p <;> rfl

theorem sweepUpdates_iff (p : PulseIx) (r1 : Byte) (x : Pulse) :
    sweepUpdates p r1 x = true ↔ x.sweep.divider.toNat = 0 ∧ r1.toNat / 128 = 1 ∧ r1.toNat % 8 ≠ 0 ∧
      8 ≤ (x.timer.toNat : ℤ) ∧ 0 ≤ sweepTarget p r1 x.timer ∧ sweepTarget p r1 x.timer ≤ 0x7FF := by
  have hshift : sweepShift r1 ≠ 0 ↔ r1.toNat % 8 ≠ 0 := by
    rw [← sweepShift_toNat, ne_eq, ne_eq, toNat_eq_zero_iff]
  simp only [sweepUpdates, Bool.and_eq_true, beq_iff_eq, bne_iff_ne, decide_eq_true_eq, hshift,
    sweepEnable_iff, toNat_eq_zero_iff, and_assoc, Nat.ofNat_le_cast]

/-- The new timer as an integer: a target that is taken fits the timer's 11 bits. -/
theorem clockSweep_timer_toNat (p : PulseIx) (r1 : Byte) (x : Pulse) :
    ((clockSweep p r1 x).timer.toNat : ℤ) =
      if sweepUpdates p r1 x then sweepTarget p r1 x.timer else x.timer.toNat := by
  rw [clockSweep_timer]
  split_ifs with hu
  · obtain ⟨-, -, -, -, h0, h1⟩ := (sweepUpdates_iff p r1 x).mp hu
    rw [BitVec.toNat_ofInt]
    omega
  · rfl

theorem clockSweep_divider_toNat (p : PulseIx) (r1 : Byte) (x : Pulse) :
    (clockSweep p r1 x).sweep.divider.toNat =
      if x.sweep.divider.toNat = 0 ∨ x.sweep.reload = true then r1.toNat / 16 % 8
      else x.sweep.divider.toNat - 1 := by
  rw [clockSweep_sweep, if_congr (or_congr_left toNat_eq_zero_iff) rfl rfl]
  split_ifs with h
  · exact sweepPeriod_toNat r1
  · exact toNat_sub_one (not_or.mp h).1

/-- A pending reload is cleared, and with none pending the flag stays clear. -/
theorem clockSweep_reload (p : PulseIx) (r1 : Byte) (x : Pulse) :
    (clockSweep p r1 x).sweep.reload = false := by
  rw [clockSweep_sweep]
  split_ifs with h
  · rfl
  · simpa using (not_or.mp h).2

/-- Settles O33. -/
theorem sweepClockFollowsTheRule : Obligations.SweepClockFollowsTheRule := by
  intro p r1 x
  refine ⟨?_, clockSweep_divider_toNat p r1 x, clockSweep_reload p r1 x, clockSweep_length p r1 x,
    clockSweep_env p r1 x, clockSweep_osc p r1 x⟩
  rw [clockSweep_timer_toNat, if_congr (sweepUpdates_iff p r1 x) rfl rfl, sweepTarget_eq]

/-- Settles O34: both channels negate the same shifted timer, and a shift of 0 fails R261's condition. -/
theorem negatedTargetsDifferByOne : Obligations.NegatedTargetsDifferByOne := by
  refine ⟨fun r1 t hn => by simp [sweepTarget, hn], fun p r1 x hs => ?_, by decide, by decide⟩
  rw [clockSweep_timer, if_neg (by simp [sweepUpdates, hs])]

/-! What each step clocks (R234 to R236) -/

/-- A sweep clock moves the timer and the sweep unit alone. -/
theorem clockSweep_eq (p : PulseIx) (r1 : Byte) (x : Pulse) :
    clockSweep p r1 x =
      { x with timer := (clockSweep p r1 x).timer, sweep := (clockSweep p r1 x).sweep } := by
  unfold clockSweep clockSweepDivider clockSweepTimer
  split <;> split <;> rfl

/-- It reads of its channel the timer and the sweep unit alone. -/
theorem clockSweep_congr {x y : Pulse} (ht : x.timer = y.timer) (hs : x.sweep = y.sweep) (p : PulseIx)
    (r1 : Byte) : (clockSweep p r1 x).timer = (clockSweep p r1 y).timer ∧
      (clockSweep p r1 x).sweep = (clockSweep p r1 y).sweep := by
  have hu : sweepUpdates p r1 x = sweepUpdates p r1 y := by
    rw [sweepUpdates, ht, hs, sweepUpdates]
  simp only [clockSweep_timer, clockSweep_sweep, hu, ht, hs, and_self]

/-- A half-frame clock of a pulse channel: the sweep unit, clocked after the length counter, does not read
it. -/
theorem clockPulseHalf_eq (b : Block) (p : PulseIx) :
    clockPulseHalf b p =
      { b.pulse p with
        timer := (clockSweep p (b.pulseSweep p) (b.pulse p)).timer
        sweep := (clockSweep p (b.pulseSweep p) (b.pulse p)).sweep
        length := clockLength (b.pulse p).length (loopHalt (b.pulseCtrl p)) } := by
  rw [clockPulseHalf, clockSweep_eq]
  obtain ⟨htimer, hsweep⟩ := clockSweep_congr (x := { b.pulse p with
    length := clockLength (b.pulse p).length (loopHalt (b.pulseCtrl p)) }) (y := b.pulse p) rfl rfl p
    (b.pulseSweep p)
  rw [htimer, hsweep]

/-- Settles O28: a Q and an N step by definition, an H step by its clock of each pulse channel. -/
theorem stepsClockOnlyTheirUnits : Obligations.StepsClockOnlyTheirUnits := fun b => by
  refine ⟨rfl, ?_, rfl⟩
  rw [performStep, stepHalf, clockPulseHalf_eq, clockPulseHalf_eq]
  rfl

/-! Gates and amplitudes (R241, R270, R271) -/

/-- A gate that also asks for a volume other than 0 plays no other value for that. -/
theorem gated_volume_eq (enable : Bool) (length : Byte) (v : BitVec 4) :
    (if enable && length != 0 && v != 0 then v.toNat else 0) =
      if enable = true ∧ length ≠ 0 then v.toNat else 0 := by
  by_cases hv : v = 0
  · simp [hv]
  · rw [bne_iff_ne.mpr hv, Bool.and_true]
    simp

theorem effectiveVolume_toNat (e : Envelope) (r0 : Byte) :
    (effectiveVolume e r0).toNat =
      if r0.toNat / 16 % 2 = 1 then r0.toNat % 16 else e.decay.toNat := by
  rw [effectiveVolume, apply_ite BitVec.toNat, volume_toNat]
  exact if_congr (getLsbD_iff_toNat r0 4) rfl rfl

theorem amplitudePulse_eq (b : Block) (p : PulseIx) :
    amplitudePulse b p =
      if pulseEnable b.status p = true ∧ (b.pulse p).length ≠ 0 then
        (effectiveVolume (b.pulse p).env (b.pulseCtrl p)).toNat else 0 :=
  gated_volume_eq ..

theorem amplitudeNoise_eq (b : Block) :
    amplitudeNoise b =
      if enableNoise b.status = true ∧ b.noise.length ≠ 0 then
        (effectiveVolume b.noise.env b.noiseCtrl).toNat else 0 :=
  gated_volume_eq ..

theorem amplitudeTri_eq (c : Config) (b : Block) :
    amplitudeTri c b = if enableTri b.status = true ∧ b.tri.length ≠ 0 then c.triAmp else 0 := by
  simp [amplitudeTri, gateTri]

/-- Settles O35, channel by channel. -/
theorem amplitudesFollowTheGates : Obligations.AmplitudesFollowTheGates := by
  intro b
  have hen := getLsbD_iff_toNat b.regs[0x15]
  exact ⟨(amplitudePulse_eq b .p1).trans
      (if_congr (and_congr_left' (hen 0)) (effectiveVolume_toNat _ _) rfl),
    (amplitudePulse_eq b .p2).trans (if_congr (and_congr_left' (hen 1)) (effectiveVolume_toNat _ _) rfl),
    (amplitudeTri_eq _ b).trans (if_congr (and_congr_left' (hen 2)) rfl rfl),
    (amplitudeNoise_eq b).trans (if_congr (and_congr_left' (hen 3)) (effectiveVolume_toNat _ _) rfl)⟩

end Sys2Proof.Machine
end

section
/-! When frame ticks come (spec/41_apu_sequencer.md R230; O26) and what they perform (R231 to R233; O27). -/

namespace Sys2Proof.Machine

/-! Ticks (R231 to R233) -/

/-- The steps of consecutive ticks are read off the table, going round at its end. -/
theorem tickActions_eq (c : Config) (n : Nat) {b : Block} (h : b.fs.step < (stepTable c b).length) :
    tickActions c n b = (List.range n).map fun k =>
      stepAction (stepTable c b) ((b.fs.step + k) % (stepTable c b).length) := by
  induction n generalizing b with
  | zero => rfl
  | succ n ih =>
    have htable : stepTable c (fsTick c b) = stepTable c b := stepTable_congr (fsTick_regs c b) c
    have hhead : tickAction c b =
        stepAction (stepTable c b) ((b.fs.step + 0) % (stepTable c b).length) := by
      rw [Nat.add_zero, Nat.mod_eq_of_lt h, tickAction]
    rw [tickActions, ih (by rw [htable, fsTick_fs]; exact Nat.mod_lt _ (by omega)), htable, fsTick_fs,
      List.range_succ_eq_map, List.map_cons, List.map_map, hhead]
    congr 1
    refine List.map_congr_left fun k _ => ?_
    simp only [Function.comp_apply, Nat.mod_add_mod, Nat.succ_eq_add_one, Nat.add_right_comm, Nat.add_assoc]

/-- As many ticks as the table is long go once round it. -/
theorem tickActions_round {c : Config} {b : Block} {table : List FrameStep} (ht : stepTable c b = table)
    (h : b.fs.step < table.length) : tickActions c table.length b = table.rotate b.fs.step := by
  subst ht
  rw [tickActions_eq c _ h]
  refine List.ext_getElem (by simp) fun k hk _ => ?_
  rw [List.getElem_map, List.getElem_range, List.getElem_rotate, Nat.add_comm,
    stepAction_of_lt (Nat.mod_lt _ (by omega))]

theorem tickActions_round_count {c : Config} {b : Block} {table : List FrameStep}
    (ht : stepTable c b = table) (h : b.fs.step < table.length) (a : FrameStep) :
    (tickActions c table.length b).count a = table.count a := by
  rw [tickActions_round ht h]
  exact (List.rotate_perm _ _).count_eq a

/-- Settles O27: going once round a table performs its entries, from step 0 in the table's order. -/
theorem tickWindowsClockTheStatedCounts : Obligations.TickWindowsClockTheStatedCounts := by
  refine ⟨fun b hm hs => ?_, fun b hm hs => ?_⟩
  · have ht : stepTable Config.defaults b = [.quarter, .half, .quarter, .half] := if_neg (by
      rw [Block.frameMode, hm]; decide)
    exact ⟨fun h0 => by simpa [h0] using tickActions_round ht hs, tickActions_round_count ht hs .quarter,
      tickActions_round_count ht hs .half⟩
  · have ht : stepTable Config.defaults b = [.quarter, .half, .quarter, .half, .null] := if_pos hm
    exact ⟨fun h0 => by simpa [h0] using tickActions_round ht hs, tickActions_round_count ht hs .quarter,
      tickActions_round_count ht hs .half, tickActions_round_count ht hs .null⟩

/-! What only a tick moves (R230) -/

/-- The parts of a pulse channel that only a frame tick moves while samples are rendered. -/
def Pulse.units (x : Pulse) : Timer × Byte × Envelope × Sweep := (x.timer, x.length, x.env, x.sweep)

/-- The parts of the channels that only a frame tick moves while samples are rendered. -/
def Block.units (b : Block) :
    (Timer × Byte × Envelope × Sweep) × (Timer × Byte × Envelope × Sweep) × Timer × Byte × Byte × Envelope :=
  (b.pulse1.units, b.pulse2.units, b.tri.timer, b.tri.length, b.noise.length, b.noise.env)

theorem internalSample_units (c : Config) (a : Amplitudes) (b : Block) :
    (internalSample c a b).units = b.units := by
  simp [Block.units, Pulse.units, advancePulse]

theorem sampleState_units (c : Config) (b : Block) :
    (sampleState c b).units = (frameCountdown c b).units :=
  internalSamples_keeps (P := fun x => x.units = (frameCountdown c b).units)
    (fun x hx => (internalSample_units c _ x).trans hx) _ rfl

/-- While the countdown lasts, output samples only count it down. -/
theorem afterSamples_before_tick (c : Config) {n : Nat} {b : Block} (h : n < b.fs.countdown) :
    (afterSamples c n b).fs = ⟨b.fs.step, b.fs.countdown - n⟩ ∧ (afterSamples c n b).units = b.units := by
  induction n generalizing b with
  | zero => exact ⟨rfl, rfl⟩
  | succ n ih =>
    have hcount := frameCountdown_of_gt (b := b) (by omega) c
    have hfs : (sampleState c b).fs = ⟨b.fs.step, b.fs.countdown - 1⟩ := by
      rw [sampleState_fs, hcount]
    have hunits : (sampleState c b).units = b.units := by
      rw [sampleState_units, hcount]
      rfl
    obtain ⟨ihfs, ihunits⟩ := ih (b := sampleState c b) (by rw [hfs]; exact Nat.lt_sub_of_add_lt h)
    rw [afterSamples, ihfs, ihunits, hfs, hunits]
    exact ⟨by simp only [Nat.sub_sub, Nat.add_comm], rfl⟩

/-- The sample that ends the countdown moves the step index on and reloads the countdown. -/
theorem afterSamples_countdown_fs (c : Config) {b : Block} (h : 0 < b.fs.countdown) :
    (afterSamples c b.fs.countdown b).fs = ⟨(b.fs.step + 1) % (stepTable c b).length, c.fsPeriod⟩ := by
  obtain ⟨n, hn⟩ := Nat.exists_eq_add_one.mpr h
  obtain ⟨hfs, -⟩ := afterSamples_before_tick c (n := n) (b := b) (by omega)
  have hlast : ¬ 1 < (afterSamples c n b).fs.countdown := by
    simp only [hfs]
    omega
  rw [hn, afterSamples_add, afterSamples, afterSamples, sampleState_fs, frameCountdown_fs, if_neg hlast, hfs,
    stepTable_congr (afterSamples_regs c n b)]

theorem fsPeriod_defaults : Config.defaults.fsPeriod = 183 := by decide

/-- Settles O26; the reset state's countdown is 183. -/
theorem ticksComeWhenTheCountdownEnds : Obligations.TicksComeWhenTheCountdownEnds := by
  have hreset : Block.reset.fs.countdown = 183 := fsPeriod_defaults
  refine ⟨fun b n hn => ?_, fun b hb => frameCountdown_of_le hb.le _,
    fun b hb => afterSamples_countdown_fs _ hb, ?_, ?_⟩
  · obtain ⟨hfs, hunits⟩ := afterSamples_before_tick Config.defaults hn
    simpa only [Block.units, Pulse.units, Prod.mk.injEq, and_assoc] using And.intro hfs hunits
  · rw [(afterSamples_before_tick _ (by rw [hreset]; decide)).1, hreset]
    rfl
  · have h := afterSamples_countdown_fs Config.defaults (b := Block.reset) (by rw [hreset]; decide)
    rw [hreset] at h
    exact h

end Sys2Proof.Machine
end

section
/-! A closed gate stops nothing (spec/41_apu_sequencer.md R273; O36): each part of an output sample takes blocks
with the same running parts to blocks with the same running parts, whatever their gates. -/

namespace Sys2Proof.Machine

/-! Closed gates -/

theorem amplitudePulse_of_closed {b : Block} {p : PulseIx} (h : gatePulse b p = false) :
    amplitudePulse b p = 0 := by
  simp [amplitudePulse, h]

theorem amplitudeTri_of_closed (c : Config) {b : Block} (h : gateTri b = false) :
    amplitudeTri c b = 0 := by
  simp [amplitudeTri, h]

theorem amplitudeNoise_of_closed {b : Block} (h : gateNoise b = false) : amplitudeNoise b = 0 := by
  simp [amplitudeNoise, h]

/-! What a noise clock reads of its channel -/

/-- A noise reload's register and count come from the register and the count alone. -/
theorem noiseReload_congr (c : Config) (mode : Bool) (period : ℚ) (fuel : Nat) {x y : Noise}
    (hl : x.lfsr = y.lfsr) (hc : x.count = y.count) :
    (noiseReload c mode period fuel x).lfsr = (noiseReload c mode period fuel y).lfsr ∧
      (noiseReload c mode period fuel x).count = (noiseReload c mode period fuel y).count := by
  induction fuel generalizing x y with
  | zero => exact ⟨hl, hc⟩
  | succ fuel ih =>
    rw [noiseReload, noiseReload, hl, hc]
    split_ifs
    · exact ih rfl rfl
    · exact ⟨hl, hc⟩

namespace Block.SameRunning

variable {a b : Block} (h : a.SameRunning b)
include h

/-! What the running parts read of the register file -/

theorem pulseSweep (p : PulseIx) : a.pulseSweep p = b.pulseSweep p := by
  cases p with
  | p1 => exact eq_of_and_ff_eq (h.regs 0x01)
  | p2 => exact eq_of_and_ff_eq (h.regs 0x05)

theorem dutyOf (c : Config) (p : PulseIx) :
    Machine.dutyOf c (a.pulseCtrl p) = Machine.dutyOf c (b.pulseCtrl p) := by
  have hindex : dutyIndex (a.pulseCtrl p) = dutyIndex (b.pulseCtrl p) := by
    cases p with
    | p1 => exact extractLsb'_eq_of_and_eq (h.regs 0x00) (by decide)
    | p2 => exact extractLsb'_eq_of_and_eq (h.regs 0x04) (by decide)
  simp only [Machine.dutyOf, hindex]

theorem noiseMode : Machine.noiseMode a.noiseModePeriod = Machine.noiseMode b.noiseModePeriod :=
  getLsbD_eq_of_and_eq (h.regs 0x0E) (by decide)

theorem noisePeriod (c : Config) :
    Machine.noisePeriod c a.noiseModePeriod = Machine.noisePeriod c b.noiseModePeriod := by
  have hindex : noisePeriodIndex a.noiseModePeriod = noisePeriodIndex b.noiseModePeriod :=
    extractLsb'_eq_of_and_eq (h.regs 0x0E) (by decide)
  rw [Machine.noisePeriod, hindex, Machine.noisePeriod]

theorem stepTable (c : Config) : Machine.stepTable c a = Machine.stepTable c b := by
  have hmode : fiveStep a.frameMode = fiveStep b.frameMode :=
    getLsbD_eq_of_and_eq (h.regs 0x17) (by decide)
  rw [Machine.stepTable, hmode, Machine.stepTable]

/-! The frame sequencer -/

theorem clockPulseHalf (p : PulseIx) :
    (Machine.clockPulseHalf a p).timer = (Machine.clockPulseHalf b p).timer ∧
      (Machine.clockPulseHalf a p).sweep = (Machine.clockPulseHalf b p).sweep := by
  rw [clockPulseHalf_eq, clockPulseHalf_eq, h.pulseSweep]
  cases p with
  | p1 => exact clockSweep_congr h.timer1 h.sweep1 _ _
  | p2 => exact clockSweep_congr h.timer2 h.sweep2 _ _

theorem performStep (s : FrameStep) :
    (Machine.performStep s a).SameRunning (Machine.performStep s b) := by
  cases s with
  | quarter => exact { h with }
  | half =>
    obtain ⟨htimer1, hsweep1⟩ := h.clockPulseHalf .p1
    obtain ⟨htimer2, hsweep2⟩ := h.clockPulseHalf .p2
    exact { h with
      timer1 := htimer1
      timer2 := htimer2
      sweep1 := hsweep1
      sweep2 := hsweep2
      osc1 := by simpa using h.osc1
      osc2 := by simpa using h.osc2 }
  | null => exact h

theorem withFs (fs : FrameSeq) : ({ a with fs := fs } : Block).SameRunning { b with fs := fs } :=
  { h with fs := rfl }

theorem fsTick (c : Config) : (Machine.fsTick c a).SameRunning (Machine.fsTick c b) := by
  rw [Machine.fsTick, Machine.fsTick, h.stepTable, h.fs]
  exact (h.withFs _).performStep _

theorem frameCountdown (c : Config) :
    (Machine.frameCountdown c a).SameRunning (Machine.frameCountdown c b) := by
  rw [Machine.frameCountdown, Machine.frameCountdown, h.fs]
  split_ifs
  · exact (h.withFs _).fsTick c
  · exact h.withFs _

/-! Internal samples -/

theorem advancePulse_osc (c : Config) (p : PulseIx) :
    (advancePulse c a p).osc = (advancePulse c b p).osc := by
  simp only [advancePulse, h.dutyOf]
  cases p with
  | p1 => simp only [Block.pulse_p1, h.osc1, h.timer1]
  | p2 => simp only [Block.pulse_p2, h.osc2, h.timer2]

theorem noiseClock (c : Config) :
    (Machine.noiseClock c a.noiseModePeriod a.noise).lfsr =
        (Machine.noiseClock c b.noiseModePeriod b.noise).lfsr ∧
      (Machine.noiseClock c a.noiseModePeriod a.noise).count =
        (Machine.noiseClock c b.noiseModePeriod b.noise).count := by
  rw [Machine.noiseClock, Machine.noiseClock, h.noiseMode, h.noisePeriod, h.count]
  exact noiseReload_congr _ _ _ _ h.lfsr rfl

/-- The amplitudes reach the delay line alone. -/
theorem internalSample (c : Config) (x y : Amplitudes) :
    (Machine.internalSample c x a).SameRunning (Machine.internalSample c y b) :=
  { h with
    osc1 := h.advancePulse_osc c .p1
    osc2 := h.advancePulse_osc c .p2
    triPhase := by simp only [internalSample_tri, triAdvance_phase, h.triPhase, h.triTimer]
    lfsr := (h.noiseClock c).1
    count := (h.noiseClock c).2 }

theorem internalSamples (c : Config) (x y : Amplitudes) (n : Nat) :
    (Machine.internalSamples c x n a).SameRunning (Machine.internalSamples c y n b) := by
  induction n generalizing a b with
  | zero => exact h
  | succ n ih => exact ih (h.internalSample c x y)

/-! Output samples -/

/-- The filter output reaches the DC estimate alone. -/
theorem quantiseState (c : Config) (y z : ℚ) :
    (Machine.quantiseState c y a).SameRunning (Machine.quantiseState c z b) :=
  { h with rng := by rw [quantiseState_rng, quantiseState_rng, h.rng] }

theorem sampleState (c : Config) : (Machine.sampleState c a).SameRunning (Machine.sampleState c b) :=
  ((h.frameCountdown c).internalSamples c _ _ _).quantiseState c _ _

theorem afterSamples (c : Config) (n : Nat) :
    (Machine.afterSamples c n a).SameRunning (Machine.afterSamples c n b) := by
  induction n generalizing a b with
  | zero => exact h
  | succ n ih => exact ih (h.sampleState c)

end Block.SameRunning

/-- Settles O36: amplitudes go to the delay line, filter output to the DC estimate, and neither is read by a
running part. -/
theorem gatesStopNoOscillator : Obligations.GatesStopNoOscillator :=
  ⟨fun _ => ⟨amplitudePulse_of_closed, amplitudePulse_of_closed, amplitudeTri_of_closed _,
    amplitudeNoise_of_closed⟩, fun _ _ h n => h.afterSamples _ n⟩

end Sys2Proof.Machine
end

section
/-! The pulse's parameters and its edges (spec/42_oscillators.md R290, R293, R295; O38, O39). -/

namespace Sys2Proof.Machine

/-! Parameters read from the registers (R293) -/

theorem dutyIndex_toNat (r : Byte) : (dutyIndex r).toNat = r.toNat / 64 := by
  have := r.isLt
  simp only [dutyIndex, BitVec.extractLsb'_toNat, Nat.shiftRight_eq_div_pow]
  omega

theorem dutyTable_getElem?_dutyIndex (c : Config) (r : Byte) :
    c.dutyTable.toList[r.toNat / 64]? = some (dutyOf c r) := by
  rw [← dutyIndex_toNat, Vector.getElem?_toList]
  exact Vector.getElem?_eq_getElem (dutyIndex r).isLt

theorem pulseDelta_eq (t : Timer) :
    pulseDelta Config.defaults t = 1789773 / (16 * (t.toNat + 1)) / 88200 := by
  rw [pulseDelta, pulseFreq, fInt_defaults]
  rfl

/-- Settles O38: an internal sample reads duty and timer from the block it starts from. -/
theorem pulseParametersFollowTheRegisters : Obligations.PulseParametersFollowTheRegisters := by
  refine ⟨fun r => (dutyTable_getElem?_dutyIndex Config.defaults r).symm,
    fun t => ⟨pulseDelta_eq t, pulseDelta_pos t⟩, fun _ _ => ⟨rfl, rfl, rfl, rfl⟩, ?_⟩
  rw [pulseDelta_eq, show (0x0FD : Timer).toNat = 253 from rfl]
  norm_num

/-! Edges (R290, R295) -/

theorem frac_intCast_add_of_mem (n : ℤ) {d : ℚ} (h0 : 0 ≤ d) (h1 : d < 1) : frac (n + d) = d := by
  rw [frac_eq_fract, Int.fract_intCast_add, ← frac_eq_fract, frac_of_mem h0 h1]

@[simp] theorem frac_intCast (n : ℤ) : frac n = 0 := Int.fract_intCast n

/-- The candidates of period `n`: its integer, then its falling edge. -/
def periodCandidates (d : ℚ) (n : ℤ) : List ℚ := if 0 < d ∧ d < 1 then [n, n + d] else [n]

theorem edgeCandidates_eq (φ Δ d : ℚ) : edgeCandidates φ Δ d =
    (List.range (⌊φ + Δ⌋ - ⌊φ⌋ + 1).toNat).flatMap fun k : ℕ =>
      periodCandidates d (⌊φ⌋ + k) := by
  simp [edgeCandidates, periodCandidates, List.flatMap_assoc]

theorem eq_intCast_add_iff {x d : ℚ} {n : ℤ} (h0 : 0 ≤ d) (h1 : d < 1) :
    x = n + d ↔ ⌊x⌋ = n ∧ frac x = d := by
  constructor
  · rintro rfl
    rw [Int.floor_intCast_add, Int.floor_eq_zero_iff.mpr ⟨h0, h1⟩, add_zero]
    exact ⟨rfl, frac_intCast_add_of_mem n h0 h1⟩
  · rintro ⟨rfl, rfl⟩
    simp [frac]

theorem eq_intCast_iff {x : ℚ} {n : ℤ} : x = n ↔ ⌊x⌋ = n ∧ frac x = 0 := by
  simpa using eq_intCast_add_iff (x := x) (n := n) le_rfl zero_lt_one

/-- A duty outside (0, 1) is no fractional part, or it is that of the integers. -/
theorem mem_periodCandidates_iff {x d : ℚ} {n : ℤ} :
    x ∈ periodCandidates d n ↔ ⌊x⌋ = n ∧ (frac x = 0 ∨ frac x = d) := by
  unfold periodCandidates
  split
  · rename_i hd
    simp only [List.mem_cons, List.not_mem_nil, or_false, eq_intCast_iff,
      eq_intCast_add_iff hd.1.le hd.2, and_or_left]
  · rename_i hd
    have hzero : frac x = d → frac x = 0 := by
      rintro rfl
      by_contra hne
      exact hd ⟨lt_of_le_of_ne (frac_nonneg x) (Ne.symm hne), frac_lt_one x⟩
    rw [List.mem_singleton, eq_intCast_iff, or_iff_left_of_imp hzero]

theorem mem_edgeCandidates_iff {φ Δ d x : ℚ} : x ∈ edgeCandidates φ Δ d ↔
    ⌊φ⌋ ≤ ⌊x⌋ ∧ ⌊x⌋ ≤ ⌊φ + Δ⌋ ∧ (frac x = 0 ∨ frac x = d) := by
  simp only [edgeCandidates_eq, List.mem_flatMap, List.mem_range, mem_periodCandidates_iff]
  constructor
  · rintro ⟨k, hk, hfloor, hfrac⟩
    exact ⟨by omega, by omega, hfrac⟩
  · rintro ⟨hlo, hhi, hfrac⟩
    exact ⟨(⌊x⌋ - ⌊φ⌋).toNat, by omega, by omega, hfrac⟩

/-- Within the interval of the sample no edge is missing from the candidates. -/
theorem mem_edgeCandidates_interval_iff {φ Δ d x : ℚ} :
    (x ∈ edgeCandidates φ Δ d ∧ φ < x ∧ x ≤ φ + Δ) ↔
      (φ < x ∧ x ≤ φ + Δ ∧ (frac x = 0 ∨ frac x = d)) := by
  rw [mem_edgeCandidates_iff]
  constructor
  · rintro ⟨⟨-, -, hfrac⟩, hlo, hhi⟩
    exact ⟨hlo, hhi, hfrac⟩
  · rintro ⟨hlo, hhi, hfrac⟩
    exact ⟨⟨Int.floor_le_floor hlo.le, Int.floor_le_floor hhi, hfrac⟩, hlo, hhi⟩

theorem periodCandidates_pairwise (d : ℚ) (n : ℤ) : (periodCandidates d n).Pairwise (· < ·) := by
  unfold periodCandidates
  split
  · rename_i hd
    simpa using hd.1
  · simp

/-- Candidates rise: within a period by `periodCandidates_pairwise`, and from one period to a later one because
their floors do. -/
theorem edgeCandidates_pairwise (φ Δ d : ℚ) : (edgeCandidates φ Δ d).Pairwise (· < ·) := by
  rw [edgeCandidates_eq, List.pairwise_flatMap]
  refine ⟨fun k _ => periodCandidates_pairwise d _, List.pairwise_lt_range.imp ?_⟩
  intro j k hjk x hx y hy
  have hxfloor := (mem_periodCandidates_iff.mp hx).1
  have hyfloor := (mem_periodCandidates_iff.mp hy).1
  by_contra hle
  have := Int.floor_le_floor (not_lt.mp hle)
  omega

theorem mem_phaseEdges_iff {φ Δ d : ℚ} {e : Edge} : e ∈ phaseEdges φ Δ d ↔
    ∃ x : ℚ, φ < x ∧ x ≤ φ + Δ ∧ (frac x = 0 ∨ frac x = d) ∧ e = edgeAt φ Δ x := by
  simp only [phaseEdges, List.mem_map, List.mem_filter, Bool.and_eq_true, decide_eq_true_eq,
    mem_edgeCandidates_interval_iff, and_assoc, eq_comm (a := e)]

theorem phaseEdges_pairwise (φ d : ℚ) {Δ : ℚ} (hΔ : 0 < Δ) :
    (phaseEdges φ Δ d).Pairwise fun e e' => e.time < e'.time := by
  rw [phaseEdges, List.pairwise_map]
  refine ((edgeCandidates_pairwise φ Δ d).filter _).imp fun hxy => ?_
  exact div_lt_div_of_pos_right (sub_lt_sub_right hxy φ) hΔ

/-- Settles O39: a number of the interval is a candidate exactly when it meets R295's condition. -/
theorem edgeListIsTheIntervalsEdges : Obligations.EdgeListIsTheIntervalsEdges := fun φ Δ d hΔ =>
  ⟨fun _ => mem_phaseEdges_iff, phaseEdges_pairwise φ d hΔ, fun _ => mem_edgeCandidates_interval_iff,
    edgeCandidates_pairwise φ Δ d⟩

end Sys2Proof.Machine
end

section
/-! The pulse value under the box kernel (spec/42_oscillators.md R290 to R292, R296; O40, O41, O42). -/

namespace Sys2Proof.Machine

/-! The high time (R292) -/

/-- Within one period, its end included, the high time grows with the phase up to the duty. -/
theorem highTime_of_mem_period {d x : ℚ} (h0 : 0 < d) (h1 : d < 1) {n : ℤ} (hlo : n ≤ x)
    (hhi : x ≤ n + 1) : highTime d x = n * d + min (x - n) d := by
  rcases hhi.lt_or_eq with hlt | rfl
  · rw [highTime, frac, Int.floor_eq_iff.mpr ⟨hlo, hlt⟩]
  · rw [highTime, ← Int.cast_one, ← Int.cast_add, frac_intCast, Int.floor_intCast, min_eq_left h0.le,
      min_eq_right (by push_cast; linarith)]
    push_cast
    ring

/-- Period `n` adds to the high time what lies past its rising edge and not past its falling edge. -/
theorem highTime_min_succ {d : ℚ} (h0 : 0 < d) (h1 : d < 1) (x : ℚ) (n : ℤ) :
    highTime d (min x (n + 1 : ℤ)) =
      highTime d (min x n) + (max (x - n) 0 - max (x - (n + d)) 0) := by
  have hn : highTime d n = n * d := by
    rw [highTime_of_mem_period h0 h1 le_rfl (by linarith), sub_self, min_eq_left h0.le, add_zero]
  have hhigh : ∀ z : ℚ, n ≤ z → z ≤ n + 1 →
      highTime d z = n * d + (z - n - max (z - (n + d)) 0) := fun z hlo hhi => by
    rw [highTime_of_mem_period h0 h1 hlo hhi]
    grind
  push_cast
  rcases le_total x n with hx | hx
  · rw [min_eq_left hx, min_eq_left (by linarith), max_eq_right (by linarith),
      max_eq_right (by linarith), sub_self, add_zero]
  · rw [min_eq_right hx, hn, max_eq_left (by linarith)]
    rcases le_total x (n + 1) with hx1 | hx1
    · rw [min_eq_left hx1, hhigh x hx hx1]
    · rw [min_eq_right hx1, hhigh _ (by linarith) le_rfl, max_eq_left (by linarith),
        max_eq_left (by linarith)]
      ring

/-- In each period before phase `x` the pulse is high for `d` and low for `1 - d`, and in the period of `x` for
no longer than that. -/
theorem highTime_floor_bounds {d : ℚ} (h0 : 0 < d) (h1 : d < 1) (x : ℚ) :
    (⌊x⌋ * d ≤ highTime d x ∧ highTime d x ≤ (⌊x⌋ + 1) * d) ∧
      ⌊x⌋ * (1 - d) ≤ x - highTime d x ∧ x - highTime d x ≤ (⌊x⌋ + 1) * (1 - d) := by
  have hx : x = ⌊x⌋ + frac x := by simp [frac]
  have hlo := frac_nonneg x
  have hhi := frac_lt_one x
  rw [highTime]
  rcases le_total (frac x) d with h | h
  · rw [min_eq_left h]
    refine ⟨⟨?_, ?_⟩, ?_, ?_⟩ <;> linarith
  · rw [min_eq_right h]
    refine ⟨⟨?_, ?_⟩, ?_, ?_⟩ <;> linarith

/-- From one phase to a later one the high time grows by 0 at least and by the phase at most. -/
theorem highTime_growth {d : ℚ} (h0 : 0 < d) (h1 : d < 1) {x y : ℚ} (hxy : x ≤ y) :
    highTime d x ≤ highTime d y ∧ highTime d y - highTime d x ≤ y - x := by
  rcases (Int.floor_le_floor hxy).lt_or_eq with hlt | heq
  · have hn : (⌊x⌋ : ℚ) + 1 ≤ ⌊y⌋ := by exact_mod_cast hlt
    have hhigh : (⌊x⌋ + 1) * d ≤ ⌊y⌋ * d := mul_le_mul_of_nonneg_right hn h0.le
    have hlow : (⌊x⌋ + 1) * (1 - d) ≤ ⌊y⌋ * (1 - d) :=
      mul_le_mul_of_nonneg_right hn (by linarith)
    obtain ⟨⟨-, hxhigh⟩, -, hxlow⟩ := highTime_floor_bounds h0 h1 x
    obtain ⟨⟨hyhigh, -⟩, hylow, -⟩ := highTime_floor_bounds h0 h1 y
    constructor <;> linarith
  · have hfrac : frac y - frac x = y - x := by rw [frac, frac, heq]; ring
    have hmin := min_le_min_right d (show frac x ≤ frac y by linarith)
    have hmin' : min (frac y) d ≤ min (frac x) d + (frac y - frac x) := by grind
    rw [highTime, highTime, heq]
    constructor <;> linarith

/-! What the edges of a sample lag together -/

/-- The lag of the edge at `x`, or 0 when the sample's interval does not hold it. -/
def lagAt (φ Δ x : ℚ) : ℚ := if φ < x ∧ x ≤ φ + Δ then (edgeAt φ Δ x).lag else 0

theorem phaseEdges_lag_sum_eq (φ Δ d : ℚ) : ((phaseEdges φ Δ d).map Edge.lag).sum =
    ((edgeCandidates φ Δ d).map (lagAt φ Δ)).sum := by
  rw [phaseEdges]
  induction edgeCandidates φ Δ d with
  | nil => rfl
  | cons x xs ih =>
    by_cases h : φ < x ∧ x ≤ φ + Δ
    · simp [lagAt, h, ← ih]
    · simpa [lagAt, h] using ih

/-- An edge passed by the end of the sample lags by the whole sample, less what of the sample lies past it. -/
theorem lagAt_eq (φ : ℚ) {Δ : ℚ} (hΔ : 0 < Δ) (x : ℚ) : lagAt φ Δ x =
    (if frac x = 0 then 2 else -2) *
      ((if x ≤ φ + Δ then 1 else 0) - (max (φ + Δ - x) 0 - max (φ - x) 0) / Δ) := by
  have hne := hΔ.ne'
  unfold lagAt
  rcases lt_or_ge φ x with hlo | hlo
  · rw [max_eq_right (a := φ - x) (by linarith)]
    rcases le_or_gt x (φ + Δ) with hhi | hhi
    · rw [if_pos ⟨hlo, hhi⟩, if_pos hhi, max_eq_left (by linarith), Edge.lag, edgeAt]
      field_simp
      ring
    · rw [if_neg (by simp [hhi]), if_neg hhi.not_ge, max_eq_right (by linarith)]
      simp
  · rw [if_neg (by simp [hlo]), if_pos (show x ≤ φ + Δ by linarith), max_eq_left (by linarith),
      max_eq_left (by linarith), show φ + Δ - x - (φ - x) = Δ by ring, div_self hne, sub_self, mul_zero]

/-- The lag of the edges before period `n`: the settled level's rise when the sample ends before the period,
less twice the part of the sample that is high time before it. -/
def lagBefore (φ Δ d : ℚ) (n : ℤ) : ℚ :=
  (if φ + Δ < n then level (frac (φ + Δ)) d + 1 else 0) -
    2 * (highTime d (min (φ + Δ) n) - highTime d (min φ n)) / Δ

/-- The end `y` of the sample lies on the high level when it has passed a rising edge and not the falling edge
after it. -/
theorem level_before_succ {d : ℚ} (h0 : 0 < d) (h1 : d < 1) (y : ℚ) (n : ℤ) :
    (if y < (n + 1 : ℤ) then level (frac y) d + 1 else 0) =
      (if y < n then level (frac y) d + 1 else 0) +
        2 * ((if (n : ℚ) ≤ y then 1 else 0) - if n + d ≤ y then 1 else 0) := by
  push_cast
  rcases lt_or_ge y n with hy | hy
  · rw [if_pos (by linarith), if_pos hy, if_neg hy.not_ge, if_neg (by linarith)]
    ring
  · rw [if_neg hy.not_gt, if_pos hy]
    rcases lt_or_ge y (n + 1) with hn | hn
    · have hfrac : frac y = y - n := by rw [frac, Int.floor_eq_iff.mpr ⟨hy, hn⟩]
      rw [if_pos hn, hfrac, level]
      rcases lt_or_ge y (n + d) with hd | hd
      · rw [if_pos (by linarith), if_neg hd.not_ge]; norm_num
      · rw [if_neg (by linarith), if_pos hd]; norm_num
    · rw [if_neg hn.not_gt, if_pos (by linarith)]; norm_num

theorem periodCandidates_lag_sum (φ : ℚ) {Δ d : ℚ} (hΔ : 0 < Δ) (h0 : 0 < d) (h1 : d < 1) (n : ℤ) :
    ((periodCandidates d n).map (lagAt φ Δ)).sum = lagBefore φ Δ d (n + 1) - lagBefore φ Δ d n := by
  rw [periodCandidates, if_pos ⟨h0, h1⟩, List.map_cons, List.map_singleton, List.sum_pair,
    lagAt_eq φ hΔ, lagAt_eq φ hΔ, if_pos (frac_intCast n),
    frac_intCast_add_of_mem n h0.le h1, if_neg h0.ne', lagBefore, lagBefore,
    highTime_min_succ h0 h1, highTime_min_succ h0 h1, level_before_succ h0 h1]
  ring

/-- The lags of consecutive periods telescope. -/
theorem periods_lag_sum (φ : ℚ) {Δ d : ℚ} (hΔ : 0 < Δ) (h0 : 0 < d) (h1 : d < 1) (n : ℤ) (m : ℕ) :
    (((List.range m).flatMap fun k : ℕ => periodCandidates d (n + k)).map (lagAt φ Δ)).sum =
      lagBefore φ Δ d (n + m) - lagBefore φ Δ d n := by
  induction m with
  | zero => simp
  | succ m ih =>
    rw [List.range_succ, List.flatMap_append, List.map_append, List.sum_append, ih,
      List.flatMap_singleton, periodCandidates_lag_sum φ hΔ h0 h1, Nat.cast_succ, ← add_assoc]
    ring

theorem lagBefore_start (φ : ℚ) {Δ : ℚ} (hΔ : 0 < Δ) (d : ℚ) : lagBefore φ Δ d ⌊φ⌋ = 0 := by
  have hφ := Int.floor_le φ
  rw [lagBefore, if_neg (by linarith), min_eq_right (by linarith), min_eq_right hφ]
  simp

theorem lagBefore_end (φ : ℚ) {Δ : ℚ} (hΔ : 0 < Δ) (d : ℚ) :
    lagBefore φ Δ d (⌊φ + Δ⌋ + 1) = level (frac (φ + Δ)) d + 1 -
      2 * (highTime d (φ + Δ) - highTime d φ) / Δ := by
  have hlt := Int.lt_floor_add_one (φ + Δ)
  rw [lagBefore, Int.cast_add, Int.cast_one, if_pos hlt, min_eq_left hlt.le,
    min_eq_left (by linarith)]

theorem phaseEdges_lag_sum (φ : ℚ) {Δ d : ℚ} (hΔ : 0 < Δ) (h0 : 0 < d) (h1 : d < 1) :
    ((phaseEdges φ Δ d).map Edge.lag).sum = level (frac (φ + Δ)) d + 1 -
      2 * (highTime d (φ + Δ) - highTime d φ) / Δ := by
  have hfloor : ⌊φ⌋ ≤ ⌊φ + Δ⌋ := Int.floor_le_floor (by linarith)
  have hperiods : ⌊φ⌋ + ((⌊φ + Δ⌋ - ⌊φ⌋ + 1).toNat : ℤ) = ⌊φ + Δ⌋ + 1 := by omega
  rw [phaseEdges_lag_sum_eq, edgeCandidates_eq, periods_lag_sum φ hΔ h0 h1, hperiods,
    lagBefore_start φ hΔ, lagBefore_end φ hΔ, sub_zero]

/-! The pulse value -/

/-- An edge at the start of a sample is settled in it: the box step has no residual past its first sample. -/
theorem addResidual_box_of_time_zero (ring : List ℚ) {e : Edge} (h : e.time = 0) :
    addResidual Config.defaults ring e = ring := by
  have hB : ∀ j : ℕ, Config.defaults.stepResponse (j + 1 - e.time) = 1 := fun j =>
    Config.boxStep_high (by rw [h]; linarith [(Nat.cast_nonneg j : (0 : ℚ) ≤ j)])
  simp [addResidual, hB, List.zipIdx_map_fst]

theorem dutyEdge_eq (o : PulseOsc) (d : ℚ) : dutyEdge o d =
    if level o.phase d = level o.phase o.dutyPrev then []
    else [⟨0, level o.phase d - level o.phase o.dutyPrev⟩] := by
  unfold dutyEdge
  split
  · rename_i hd
    rw [hd, if_pos rfl]
  · simp only [sub_eq_zero]

theorem dutyEdge_height {o : PulseOsc} {d : ℚ} {e : Edge} (h : e ∈ dutyEdge o d) :
    e.height = 2 ∨ e.height = -2 := by
  rw [dutyEdge_eq] at h
  split at h
  · simp at h
  · rename_i hne
    rw [List.mem_singleton.mp h]
    unfold level at hne ⊢
    grind

theorem foldl_addResidual_dutyEdge (o : PulseOsc) (d : ℚ) (ring : List ℚ) :
    (dutyEdge o d).foldl (addResidual Config.defaults) ring = ring := by
  rw [dutyEdge_eq]
  split
  · rfl
  · exact addResidual_box_of_time_zero ring rfl

/-- No residual of a duty edge: the ring comes from the edges of the interval alone. -/
theorem ringAfterEdges_box_eq (o : PulseOsc) (d Δ : ℚ) : ringAfterEdges Config.defaults o d Δ =
    (phaseEdges o.phase Δ d).foldl (addResidual Config.defaults) o.ring := by
  rw [ringAfterEdges, List.foldl_append, foldl_addResidual_dutyEdge]

/-- The box kernel's closed form, whatever the duty was before (R292). -/
theorem pulseValue_eq_mean {o : PulseOsc} (hr : o.ring = [0, 0]) {d Δ : ℚ} (h0 : 0 < d) (h1 : d < 1)
    (hΔ : 0 < Δ) : pulseValue Config.defaults o d Δ =
      (2 * (highTime d (o.phase + Δ) - highTime d o.phase) - Δ) / Δ := by
  rw [pulseValue_box hr d hΔ, phaseEdges_lag_sum o.phase hΔ h0 h1, sub_div, div_self hΔ.ne']
  ring

/-- Settles O40 by `pulseValue_eq_mean`. -/
theorem boxPulseIsTheIntervalMean : Obligations.BoxPulseIsTheIntervalMean :=
  fun _ d _ h0 h1 hΔ _ _ _ hr => ⟨pulseValue_eq_mean hr h0 h1 hΔ, pulseAdvance_ring hr d hΔ⟩

/-- Settles O41: the one edge, its height, and a value that it leaves alone. -/
theorem dutyChangeSettlesAtOnce : Obligations.DutyChangeSettlesAtOnce :=
  ⟨dutyEdge_eq, fun _ _ _ => dutyEdge_height, fun o d Δ => by
    simp only [pulseValue, ringAfterEdges_box_eq]⟩

/-- Settles O42: the high time of the sample's interval lies between 0 and the whole interval. -/
theorem pulseUnitStaysWithinOne : Obligations.PulseUnitStaysWithinOne := by
  intro o d Δ hinv h0 h1 hΔ
  obtain ⟨hlo, hhi⟩ := highTime_growth h0 h1 (show o.phase ≤ o.phase + Δ by linarith)
  rw [pulseValue_eq_mean hinv.ring_zero h0 h1 hΔ, le_div_iff₀ hΔ, div_le_iff₀ hΔ]
  constructor <;> linarith

end Sys2Proof.Machine
end

section
/-! The triangle and the noise (spec/42_oscillators.md R310 to R321; O43, O44, O45). -/

namespace Sys2Proof.Machine

/-! Triangle -/

theorem triDelta_of_ne {t : Timer} (h : t ≠ 0) :
    triDelta Config.defaults t = 1789773 / (32 * t.toNat) / 88200 := by
  rw [triDelta, if_neg h, triFreq, fInt_defaults]
  rfl

/-- A stopped triangle holds its phase (R311). -/
theorem triAdvance_of_timer_zero (c : Config) {x : Triangle} (ht : x.timer = 0) (h0 : 0 ≤ x.phase)
    (h1 : x.phase < 1) : triAdvance c x = x := by
  rw [triAdvance, ht, triDelta_zero, add_zero, frac_of_mem h0 h1, ← ht]

/-- The ramp folded at 1/2, as a distance from it (R312). -/
theorem triValue_eq_abs (ψ : ℚ) : triValue ψ = 1 - 2 * |2 * ψ - 1| := by
  unfold triValue
  split
  · rw [abs_of_neg (by linarith)]; ring
  · rw [abs_of_nonneg (by linarith)]; ring

/-- Settles O43: increment, hold at timer 0, wrap and ramp. -/
theorem triangleFollowsItsRamp : Obligations.TriangleFollowsItsRamp :=
  ⟨fun _ => triDelta_of_ne, fun _ => triAdvance_of_timer_zero _, fun _ _ _ => rfl,
    fun ψ h0 h1 => ⟨triValue_eq_abs ψ, triValue_bounds h0 h1⟩⟩

/-! Noise register -/

/-- Settles O44, with the taps of mode 0 and mode 1. -/
theorem lfsrShiftsInItsFeedback : Obligations.LfsrShiftsInItsFeedback := fun mode l =>
  ⟨fun _ hi => lfsrStep_getLsbD_of_lt _ mode l hi, lfsrStep_getLsbD_top _ mode l,
    lfsrStep_ne_zero mode⟩

/-! Noise period and clock -/

theorem noisePeriodIndex_toNat (r : Byte) : (noisePeriodIndex r).toNat = r.toNat % 16 := by
  simp [noisePeriodIndex, BitVec.extractLsb'_toNat]

/-- The default period is the PAL table's entry, in internal samples (spec/00_scope.md R7). -/
theorem noisePeriod_eq_pal (r : Byte) : noisePeriod Config.defaults r =
    (Config.defaults.noiseTablePal[(noisePeriodIndex r).toFin] : ℚ) :=
  mul_one _

theorem noiseTablePal_getElem?_noisePeriodIndex (r : Byte) :
    (Config.defaults.noiseTablePal.toList.map (Nat.cast : ℕ → ℚ))[r.toNat % 16]? =
      some (noisePeriod Config.defaults r) := by
  rw [← noisePeriodIndex_toNat, List.getElem?_map, Vector.getElem?_toList,
    Vector.getElem?_eq_getElem (noisePeriodIndex r).isLt, noisePeriod_eq_pal]
  rfl

/-- All that a noise clock can do when the period is positive: the passes allowed are never cut short, so the
reloads it makes are the least number that brings the count above 0 (R321). -/
theorem noiseClock_eq_least (c : Config) (r2 : Byte) (n : Noise) (hp : 0 < noisePeriod c r2) :
    ∃ k : ℕ, noiseClock c r2 n = { n with
        lfsr := (lfsrStep c (noiseMode r2))^[k] n.lfsr
        count := n.count - 1 + k * noisePeriod c r2 } ∧
      0 < n.count - 1 + k * noisePeriod c r2 ∧
      ∀ j < k, n.count - 1 + j * noisePeriod c r2 ≤ 0 := by
  obtain ⟨k, hk, heq, hleast, hstop⟩ := noiseReload_eq c (noiseMode r2) (noisePeriod c r2)
    (reloadPasses (noisePeriod c r2) (n.count - 1)) { n with count := n.count - 1 }
  refine ⟨k, heq, ?_, hleast⟩
  rcases hk.lt_or_eq with hlt | rfl
  · exact hstop hlt
  · exact reloadPasses_enough hp

/-- A default period is 4 or more, so from a count of 0 or more one reload is enough. -/
theorem noiseClock_of_nonneg (r2 : Byte) (n : Noise) (hn : 0 ≤ n.count) :
    noiseClock Config.defaults r2 n =
      if 1 < n.count then { n with count := n.count - 1 }
      else { n with
        lfsr := lfsrStep Config.defaults (noiseMode r2) n.lfsr
        count := n.count - 1 + noisePeriod Config.defaults r2 } := by
  have hP := noisePeriod_defaults r2
  obtain ⟨k, heq, hpos, hleast⟩ := noiseClock_eq_least Config.defaults r2 n (by linarith)
  rw [heq]
  match k with
  | 0 =>
    rw [if_pos (by simpa using hpos)]
    simp
  | 1 =>
    have h0 := hleast 0 one_pos
    rw [if_neg (by simpa using h0)]
    simp
  | k + 2 =>
    have h1 := hleast 1 (by omega)
    push_cast at h1
    linarith

/-- Settles O45: `noiseClock_eq_least` for any positive period, and the default table's entries. -/
theorem noiseClockReloadsUntilPositive : Obligations.NoiseClockReloadsUntilPositive :=
  ⟨noiseClock_eq_least, fun _ _ => rfl,
    fun r2 => (noiseTablePal_getElem?_noisePeriodIndex r2).symm, noisePeriod_defaults,
    noiseClock_of_nonneg⟩

end Sys2Proof.Machine
end

section
/-! The mixer, the delay line and the half-band filter (spec/43_mixer.md R351 to R357; O46, O47, O48, O58). -/

namespace Sys2Proof.Machine

/-! Mixer (R351, R352) -/

/-- All four default gains are 512 (R352). -/
theorem mixSum_defaults (a : Amplitudes) (b : Block) : mixSum Config.defaults a b =
    512 * (a.p1 * unitPulse Config.defaults b .p1 + a.p2 * unitPulse Config.defaults b .p2 +
      a.tri * triValue b.tri.phase + a.noise * noiseValue b.noise) := by
  have hgain : Config.defaults.gain = Vector.replicate 4 512 := by decide +kernel
  simp only [mixSum, hgain, Vector.getElem_replicate]
  ring

/-- Each amplitude is a 4-bit level (spec/41_apu_sequencer.md R271). -/
structure Amplitudes.InRange (a : Amplitudes) : Prop where
  p1_le : a.p1 ≤ 15
  p2_le : a.p2 ≤ 15
  tri_le : a.tri ≤ 15
  noise_le : a.noise ≤ 15

theorem amplitudes_inRange (b : Block) : (amplitudes Config.defaults b).InRange :=
  ⟨amplitudePulse_le b .p1, amplitudePulse_le b .p2, amplitudeTri_le b, amplitudeNoise_le b⟩

theorem Block.Inv.osc {b : Block} (h : b.Inv) (p : PulseIx) : (b.pulse p).osc.Inv := by
  cases p with
  | p1 => exact h.osc1
  | p2 => exact h.osc2

theorem abs_unitPulse_le {b : Block} (h : b.Inv) (p : PulseIx) :
    |unitPulse Config.defaults b p| ≤ 1 :=
  abs_le.mpr (pulseUnitStaysWithinOne _ _ _ (h.osc p) (Config.defaults_wf.duty_pos _)
    (Config.defaults_wf.duty_lt_one _) (pulseDelta_pos _))

/-- A channel's output before its gain. -/
theorem abs_amplitude_mul_le {n : ℕ} {u : ℚ} (hn : n ≤ 15) (hu : |u| ≤ 1) : |n * u| ≤ 15 := by
  rw [abs_mul, Nat.abs_cast]
  have hn' : (n : ℚ) ≤ 15 := by exact_mod_cast hn
  calc n * |u| ≤ 15 * 1 := mul_le_mul hn' hu (abs_nonneg u) (by norm_num)
    _ = 15 := mul_one 15

theorem abs_mixSum_le {a : Amplitudes} {b : Block} (ha : a.InRange) (hb : b.Inv) :
    |mixSum Config.defaults a b| ≤ 30720 := by
  have h1 := abs_le.mp (abs_amplitude_mul_le ha.p1_le (abs_unitPulse_le hb .p1))
  have h2 := abs_le.mp (abs_amplitude_mul_le ha.p2_le (abs_unitPulse_le hb .p2))
  have h3 := abs_le.mp (abs_amplitude_mul_le ha.tri_le
    (abs_le.mpr (triValue_bounds hb.tri_nonneg hb.tri_lt)))
  have h4 := abs_le.mp (abs_amplitude_mul_le ha.noise_le (abs_le.mpr (noiseValue_bounds b.noise)))
  rw [mixSum_defaults, abs_le]
  constructor <;> linarith [h1.1, h1.2, h2.1, h2.2, h3.1, h3.2, h4.1, h4.2]

/-- Settles O46: four channels of amplitude at most 15 and unit value at most 1, each with gain 512. -/
theorem mixerStaysWithinItsRange : Obligations.MixerStaysWithinItsRange := fun b hb =>
  ⟨abs_mixSum_le (amplitudes_inRange b) hb, fun a => mixSum_defaults a b⟩

/-- Settles O58: the frame is `internalSample` itself, and the pushed sample is `mixSum_defaults`. -/
theorem internalSampleStepsEveryOscillator : Obligations.InternalSampleStepsEveryOscillator :=
  fun a b => ⟨rfl, congrArg (pushSample b.hb) (mixSum_defaults a b)⟩

/-! Delay line (R353) -/

theorem pushSample_getElem_zero (hb : Vector ℚ 9) (x : ℚ) : (pushSample hb x)[0] = x := rfl

theorem pushSample_getElem_succ (hb : Vector ℚ 9) (x : ℚ) {k : Nat} (h : k < 8) :
    (pushSample hb x)[k + 1] = hb[k] := by
  interval_cases k <;> rfl

/-- Settles O47. -/
theorem delayLinePushShifts : Obligations.DelayLinePushShifts := fun hb x =>
  ⟨pushSample_getElem_zero hb x, fun _ h => pushSample_getElem_succ hb x h⟩

/-- What holds of the delay line's entries and of the new sample holds of the entries after the push. -/
theorem pushSample_forall {P : ℚ → Prop} {hb : Vector ℚ 9} {x : ℚ} (hx : P x)
    (h : ∀ i : Fin 9, P hb[i]) (i : Fin 9) : P (pushSample hb x)[i] := by
  cases i using Fin.cases with
  | zero => exact hx
  | succ k =>
    have hk : (pushSample hb x)[k.succ] = hb[k.castSucc] := pushSample_getElem_succ hb x k.isLt
    rw [hk]
    exact h k.castSucc

/-! Half-band filter (R355 to R357) -/

theorem sum_toList_eq {n : ℕ} (v : Vector ℚ n) : v.toList.sum = ∑ i : Fin n, v[i] := by
  have hlist : v.toList = List.ofFn fun i : Fin n => v[i] := by apply List.ext_getElem <;> simp
  rw [hlist, List.sum_ofFn]

/-- The filter output is the taps' sum of products (R355). -/
theorem decimate_eq_sum (c : Config) (hb : Vector ℚ 9) :
    decimate c hb = ∑ i : Fin 9, c.hbCoeffs[i] * hb[i] := by
  have hzip : List.zipWith (fun h x => h * x) c.hbCoeffs.toList hb.toList =
      (Vector.zipWith (fun h x => h * x) c.hbCoeffs hb).toList := by simp
  rw [decimate, hzip, sum_toList_eq]
  simp

/-- The default coefficients, with equal outer taps taken together (R357). -/
theorem decimate_defaults (hb : Vector ℚ 9) : decimate Config.defaults hb =
    -1 / 32 * (hb[1] + hb[7]) + 9 / 32 * (hb[3] + hb[5]) + 1 / 2 * hb[4] := by
  rw [decimate_eq_sum]
  simp [Fin.sum_univ_succ, Config.defaults]
  ring

/-- Coefficients of sum 1 pass a constant (R356). -/
theorem decimate_const {c : Config} (hc : c.Wf) {hb : Vector ℚ 9} {x : ℚ}
    (h : ∀ i : Fin 9, hb[i] = x) : decimate c hb = x := by
  have hsum : ∑ i : Fin 9, c.hbCoeffs[i] = 1 := by
    rw [← sum_toList_eq, hc.hb_unity]
  simp only [decimate_eq_sum, h, ← Finset.sum_mul, hsum, one_mul]

/-- A unit impulse reads out its tap. -/
theorem decimate_impulse (c : Config) (k : Fin 9) {hb : Vector ℚ 9}
    (h : ∀ i : Fin 9, hb[i] = if i.val = k.val then 1 else 0) :
    decimate c hb = c.hbCoeffs[k] := by
  simp [decimate_eq_sum, h, ← Fin.ext_iff]

/-- Settles O48. -/
theorem filterHasUnityGain : Obligations.FilterHasUnityGain := by
  have htaps : ∀ k : Fin 9, some Config.defaults.hbCoeffs[k] =
      ([0, -1 / 32, 0, 9 / 32, 1 / 2, 9 / 32, 0, -1 / 32, 0] : List ℚ)[k.val]? := by decide +kernel
  refine ⟨decimate_defaults, fun _ _ _ hc h => decimate_const hc h, fun k hk hb h => ?_⟩
  rw [decimate_impulse Config.defaults ⟨k, hk⟩ h]
  exact htaps ⟨k, hk⟩

/-- The default coefficients' absolute values sum to 9/8, so the filter can exceed its input's bound by that
factor (log entry 14). -/
theorem abs_decimate_le {hb : Vector ℚ 9} {M : ℚ} (h : ∀ i : Fin 9, |hb[i]| ≤ M) :
    |decimate Config.defaults hb| ≤ 9 / 8 * M := by
  have h1 : |hb[1]| ≤ M := h 1
  have h3 : |hb[3]| ≤ M := h 3
  have h4 : |hb[4]| ≤ M := h 4
  have h5 : |hb[5]| ≤ M := h 5
  have h7 : |hb[7]| ≤ M := h 7
  rw [abs_le] at h1 h3 h4 h5 h7
  rw [decimate_defaults, abs_le]
  constructor <;> linarith [h1.1, h1.2, h3.1, h3.2, h4.1, h4.2, h5.1, h5.2, h7.1, h7.2]

end Sys2Proof.Machine
end

section
/-! The dither, the DC estimate and the quantiser (spec/43_mixer.md R360 to R367; O50 to O53). -/

namespace Sys2Proof.Machine

/-! Dither (R361, R363) -/

/-- Settles O50: each of the three shifts keeps a nonzero word nonzero. -/
theorem xorshiftNeverReachesZero : Obligations.XorshiftNeverReachesZero :=
  ⟨fun _ => rfl, fun _ => xorshift64_ne_zero, Config.defaults_wf.ditherSeed_ne, by decide⟩

theorem uniformDraw_eq (x : BitVec 64) :
    uniformDraw x = ((x.toNat / 2 ^ 11 : Nat) : ℚ) / 2 ^ 53 := by
  rw [uniformDraw, BitVec.toNat_ushiftRight, Nat.shiftRight_eq_div_pow]

theorem tpdf_defaults (x : BitVec 64) : tpdf Config.defaults x =
    uniformDraw (xorshift64 Config.defaults x) +
      uniformDraw (xorshift64 Config.defaults (xorshift64 Config.defaults x)) - 1 :=
  one_mul _

theorem afterSamples_rng (c : Config) (n : Nat) (b : Block) :
    (afterSamples c n b).rng = (xorshift64 c)^[2 * n] b.rng := by
  induction n generalizing b with
  | zero => rfl
  | succ n ih =>
    rw [afterSamples, ih, sampleState_rng, Nat.mul_succ, Function.iterate_add_apply]
    rfl

/-- Settles O51: two draws of 53 bits, and the generator's state by induction on the samples. -/
theorem eachSampleDrawsTwice : Obligations.EachSampleDrawsTwice :=
  ⟨fun x => ⟨by rw [tpdf_defaults, uniformDraw_eq, uniformDraw_eq], tpdf_bounds x⟩,
    afterSamples_rng Config.defaults⟩

/-! DC estimate (R362) -/

theorem dcTrack_defaults (y dc : ℚ) : dcTrack Config.defaults y dc = dc + (y - dc) / 65536 := by
  have halpha : Config.defaults.dcAlpha = 1 / 65536 := rfl
  rw [dcTrack, halpha]
  ring

/-- Settles O52. -/
theorem dcTrackerMovesBeforeItIsSubtracted : Obligations.DcTrackerMovesBeforeItIsSubtracted := by
  refine ⟨fun y b => ⟨dcTrack_defaults y b.dc, rfl⟩, ?_⟩
  rw [dcTrack_defaults]
  norm_num

/-- The estimate moves between its old value and the filter output. -/
theorem abs_dcTrack_le {y dc M : ℚ} (hy : |y| ≤ M) (hdc : |dc| ≤ M) :
    |dcTrack Config.defaults y dc| ≤ M := by
  rw [abs_le] at hy hdc
  rw [dcTrack_defaults, abs_le]
  constructor <;> linarith [hy.1, hy.2, hdc.1, hdc.2]

/-! Quantiser (R365, R366) -/

/-- Truncation stays between integer bounds. -/
theorem trunc_bounds {x : ℚ} {lo hi : ℤ} (h1 : lo ≤ x) (h2 : x ≤ hi) :
    lo ≤ trunc x ∧ trunc x ≤ hi := by
  rcases le_or_gt 0 x with h | h
  · rw [trunc_of_nonneg h]
    exact ⟨Int.le_floor.mpr h1, by exact_mod_cast (Int.floor_le x).trans h2⟩
  · rw [trunc_of_neg h]
    exact ⟨by exact_mod_cast h1.trans (Int.le_ceil x), Int.ceil_le.mpr h2⟩

theorem clipTrunc_bounds (v : ℚ) : -32768 ≤ clipTrunc v ∧ clipTrunc v ≤ 32767 := by
  obtain ⟨h1, h2⟩ := clamp_bounds v (-32768) 32767 (by norm_num)
  exact trunc_bounds (by exact_mod_cast h1) (by exact_mod_cast h2)

theorem clipTrunc_of_ge {v : ℚ} (h : 32767 ≤ v) : clipTrunc v = 32767 := by
  have hclamp : clamp v (-32768) 32767 = (32767 : ℤ) := by
    rw [clamp, max_eq_left (by linarith), min_eq_right h]
    rfl
  rw [clipTrunc, hclamp, trunc_of_nonneg (by norm_num), Int.floor_intCast]

theorem clipTrunc_of_le {v : ℚ} (h : v ≤ -32768) : clipTrunc v = -32768 := by
  have hclamp : clamp v (-32768) 32767 = (-32768 : ℤ) := by
    rw [clamp, max_eq_right h, min_eq_left (by norm_num)]
    norm_num
  rw [clipTrunc, hclamp, trunc_of_neg (by norm_num), Int.ceil_intCast]

/-- Within the 16-bit range nothing is clipped. -/
theorem clipTrunc_eq_trunc {v : ℚ} (h1 : -32768 ≤ v) (h2 : v ≤ 32767) : clipTrunc v = trunc v := by
  rw [clipTrunc, clamp, max_eq_left h1, min_eq_left h2]

/-- Settles O53: beyond the range the bound, within it the floor of a nonnegative and the ceiling of a negative
value. -/
theorem quantiserClipsAndRoundsTowardZero : Obligations.QuantiserClipsAndRoundsTowardZero := by
  refine fun v => ⟨clipTrunc_bounds v, clipTrunc_of_ge, clipTrunc_of_le, fun h0 h1 => ?_,
    fun h0 h1 => ?_⟩
  · rw [clipTrunc_eq_trunc (by linarith) h1.le, trunc_of_nonneg h0]
    exact ⟨Int.floor_le v, Int.lt_floor_add_one v⟩
  · rw [clipTrunc_eq_trunc h0.le (by linarith), trunc_of_neg h1]
    exact ⟨Int.le_ceil v, by linarith [Int.ceil_lt_add_one v]⟩

end Sys2Proof.Machine
end

section
/-! One output sample and a RENDER of them (spec/43_mixer.md R350, R368, spec/44_control.md R401; O24, O57). -/

namespace Sys2Proof.Machine

/-! One output sample -/

theorem sat16_eq (x : ℤ) : sat16 x = max (-32768) (min 32767 x) := by
  unfold sat16
  omega

theorem Memory.accumulate_eq (m : Memory) (i : Nat) (q : ℤ) : m.accumulate i q =
    m.write i (BitVec.ofInt 16 (max (-32768) (min 32767 ((m.read i).toInt + q)))) := by
  rw [Memory.accumulate, sat16_eq]

/-- With the defaults an output sample has two internal samples (R350). -/
theorem synthesise_defaults (b : Block) : synthesise Config.defaults b =
    internalSample Config.defaults (amplitudes Config.defaults (frameCountdown Config.defaults b))
      (internalSample Config.defaults (amplitudes Config.defaults (frameCountdown Config.defaults b))
        (frameCountdown Config.defaults b)) :=
  rfl

/-- Settles O57: the steps of `sampleValue` and `sampleState` with their two internal samples, and the
accumulation. -/
theorem outputSampleFollowsItsSteps : Obligations.OutputSampleFollowsItsSteps := by
  refine ⟨fun i r => ?_, fun _ _ => ⟨rfl, rfl⟩⟩
  rw [outputSample_blk, outputSample_out, Memory.accumulate_eq, sampleValue, sampleState,
    synthesise_defaults]
  exact ⟨rfl, rfl, rfl, rfl⟩

/-! The buffer after a RENDER -/

/-- Elements outside the rendered range stay. -/
theorem renderFrom_read_of_outside (c : Config) {i n k : Nat} {r : Rendering} (h : r.out.wf = true)
    (hn : i + n ≤ r.out.size) (hk : k < i ∨ i + n ≤ k) :
    (renderFrom c i n r).out.read k = r.out.read k := by
  induction n generalizing i r with
  | zero => rfl
  | succ n ih =>
    have hwf := Memory.accumulate_wf h (i := i) (by omega) (sampleValue c r.blk)
    rw [renderFrom, ih hwf (by simp; omega) (by omega), outputSample_out, Memory.accumulate,
      Memory.read_write h, if_neg (by omega)]

/-- The `j`-th element of the rendered range takes the `j`-th sample (R368). -/
theorem renderFrom_read_add (c : Config) {i n j : Nat} {r : Rendering} (h : r.out.wf = true)
    (hn : i + n ≤ r.out.size) (hj : j < n) :
    ((renderFrom c i n r).out.read (i + j)).toInt =
      sat16 ((r.out.read (i + j)).toInt + sampleValue c (afterSamples c j r.blk)) := by
  induction n generalizing i j r with
  | zero => omega
  | succ n ih =>
    have hwf := Memory.accumulate_wf h (i := i) (by omega) (sampleValue c r.blk)
    have hsize : i + 1 + n ≤ (outputSample c i r).out.size := by simp; omega
    rw [renderFrom]
    cases j with
    | zero =>
      rw [renderFrom_read_of_outside c hwf hsize (by omega), outputSample_out,
        Memory.read_accumulate h, if_pos (by omega)]
      rfl
    | succ j =>
      rw [show i + (j + 1) = i + 1 + j by omega, ih hwf hsize (by omega), outputSample_out,
        Memory.read_accumulate h, if_neg (by omega)]
      rfl

/-- Settles O24: each element is written by its own sample alone. -/
theorem renderAddsEachSampleOnce : Obligations.RenderAddsEachSampleOnce := by
  refine ⟨fun n s hwf hn => ?_, fun _ _ => execRender_of_short⟩
  have hn0 : 0 + n ≤ s.out.size := by omega
  refine ⟨_, execRender_of_le hn, renderFrom_blk _ _ _ _, ?_, renderFrom_size _ _ _ _,
    fun i hi => ?_, fun i hi => ?_, rfl, rfl, rfl⟩
  · rw [renderInto_blk, renderFrom_blk, afterSamples_regs]
  · have hread := renderFrom_read_add Config.defaults (r := ⟨s.blk, s.out⟩) hwf hn0 hi
    rwa [Nat.zero_add, sat16_eq] at hread
  · exact renderFrom_read_of_outside _ (r := ⟨s.blk, s.out⟩) hwf hn0 (by omega)

end Sys2Proof.Machine
end

section
/-! The signal bounds through every step (spec/43_mixer.md R352, R355, R362; log entry 14; O11). -/

namespace Sys2Proof.Machine

/-- The bounds read the delay line and the DC estimate alone. -/
theorem Block.SignalBound.congr {a b : Block} (h : b.SignalBound) (hhb : a.hb = b.hb)
    (hdc : a.dc = b.dc) : a.SignalBound :=
  ⟨by rw [hhb]; exact h.hb_le, by rw [hdc]; exact h.dc_le⟩

/-! One output sample -/

theorem Block.SignalBound.internalSample {a : Amplitudes} {b : Block} (h : b.SignalBound)
    (hinv : b.Inv) (ha : a.InRange) : (Machine.internalSample Config.defaults a b).SignalBound where
  hb_le := pushSample_forall (P := fun x => |x| ≤ 30720) (abs_mixSum_le ha hinv) h.hb_le
  dc_le := h.dc_le

theorem Block.SignalBound.synthesise {b : Block} (h : b.SignalBound) (hinv : b.Inv) :
    (Machine.synthesise Config.defaults b).SignalBound :=
  have hstart : (frameCountdown Config.defaults b).SignalBound :=
    h.congr (frameCountdown_hb _ _) (frameCountdown_dc _ _)
  (internalSamples_keeps (P := fun b => b.Inv ∧ b.SignalBound)
    (fun _ ⟨hi, hb⟩ => ⟨hi.internalSample _, hb.internalSample hi (amplitudes_inRange _)⟩) _
    ⟨hinv.frameCountdown, hstart⟩).2

/-- The filter output is at most 9/8 of the mixer's bound (log entry 14). -/
theorem Block.SignalBound.abs_decimate_le {b : Block} (h : b.SignalBound) :
    |decimate Config.defaults b.hb| ≤ 34560 :=
  (Machine.abs_decimate_le h.hb_le).trans_eq (by norm_num)

theorem Block.SignalBound.sampleState {b : Block} (h : b.SignalBound) (hinv : b.Inv) :
    (Machine.sampleState Config.defaults b).SignalBound :=
  have hs := h.synthesise hinv
  ⟨hs.hb_le, abs_dcTrack_le hs.abs_decimate_le hs.dc_le⟩

theorem Block.SignalBound.afterSamples {b : Block} (h : b.SignalBound) (hinv : b.Inv) (n : Nat) :
    (Machine.afterSamples Config.defaults n b).SignalBound :=
  (afterSamples_keeps (P := fun b => b.Inv ∧ b.SignalBound)
    (fun _ ⟨hi, hb⟩ => ⟨hi.sampleState, hb.sampleState hi⟩) n ⟨hinv, h⟩).2

/-! Commands and steps -/

/-- No command but RENDER moves the delay line or the DC estimate (spec/40_apu_writes.md, opening). -/
theorem exec_hb_dc_of_not_lends {i : Instr} {s t : State} (hl : lendsBuffer i = false)
    (h : exec i s = .next t) : t.blk.hb = s.blk.hb ∧ t.blk.dc = s.blk.dc := by
  cases i with
  | render n => simp [lendsBuffer] at hl
  | _ =>
    cases h
    simp [writePulseSweep, writePulseTlo, writePulseLen, writeTriTlo, writeTriLen, writeNoiseLen,
      writeFrame]

theorem exec_keeps_signalBound {i : Instr} {s t : State} (hinv : s.blk.Inv) (h : s.blk.SignalBound)
    (he : exec i s = .next t) : t.blk.SignalBound := by
  cases hl : lendsBuffer i with
  | false =>
    obtain ⟨hhb, hdc⟩ := exec_hb_dc_of_not_lends hl he
    exact h.congr hhb hdc
  | true =>
    cases i with
    | render n =>
      obtain ⟨-, rfl⟩ := execRender_cases he
      rw [renderInto_blk, renderFrom_blk]
      exact h.afterSamples hinv n
    | _ => cases hl

/-- Settles O11: a push keeps the mixer's bound, the DC estimate moves toward a filter output within 9/8 of it,
and only a RENDER moves either. -/
theorem stepKeepsTheSignalBounds : Obligations.StepKeepsTheSignalBounds := by
  intro s s' hinv h hs
  obtain ⟨-, ⟨-, rfl⟩ | ⟨call, rest, i, t, -, -, he, rfl⟩⟩ := step_cases hs
  · exact h
  · rw [State.handBack_blk]
    exact exec_keeps_signalBound (s := s.accept call rest) hinv.blk h he

end Sys2Proof.Machine
end

section
/-! The commands around the rendering (spec/44_control.md R400 to R406; O5, O7, O22, O23, O25, O49): the step and its
refusals, what WRITE and SILENCE leave alone, a RENDER cut in two, and the filter after SILENCE. -/

namespace Sys2Proof.Machine

/-! Steps and refusals (R400, R404) -/

theorem step_of_marked {s : State} (h : s.refusalMark = true) : step s = .refused .refusedRun := by
  simp [step, h]

theorem step_of_pending_nil {s : State} (hm : s.refusalMark = false) (hp : s.pending = []) :
    step s = .next s := by
  simp [step, hm, hp]

/-- A refusal by the command itself is the step's answer. -/
theorem step_of_exec_refused {s : State} {call : Call} {rest : List Call} {i : Instr} {r : Refusal}
    (hm : s.refusalMark = false) (hp : s.pending = call :: rest) (hd : decode call.word = .ok i)
    (ht : exec i (s.accept call rest) = .refused r) : step s = .refused r := by
  simp [step, hm, hp, hd, ht, handBackOutcome]

theorem advance_of_refused {s : State} {r : Refusal} (h : step s = .refused r) :
    advance s = s.markRefused := by
  simp [advance, h]

/-- Settles O5: a refused step is recorded by `markRefused`, and a marked state refuses every step. -/
theorem refusalMarkIsNeverCleared : Obligations.RefusalMarkIsNeverCleared := by
  have hmarked : ∀ s : State, s.refusalMark = true → advance s = s.markRefused := fun _ h =>
    advance_of_refused (step_of_marked h)
  refine ⟨fun _ _ h => advance_of_refused h, fun s h => ?_, fun s s' h => ?_, fun s h => ?_⟩
  · rw [hmarked s h, State.markRefused_refusalMark]
  · simp [step_of_marked h]
  · rw [hmarked s h, State.markRefused_blk]

/-- Settles O7: of all commands only a RENDER hands its buffer back. -/
theorem stepRunsTheDecodedCommand : Obligations.StepRunsTheDecodedCommand := by
  refine ⟨fun s t call rest i hm hp hd ht => ?_, fun _ _ _ _ _ hm hp hd => step_of_exec_refused hm hp hd,
    fun _ => step_of_pending_nil⟩
  rw [step_of_exec hm hp hd ht]
  cases i with
  | render n => exact congrArg Host.Outcome.next (State.handBack_of_lends rfl t)
  | _ => exact congrArg Host.Outcome.next (State.handBack_of_not_lends rfl t)

/-! What no WRITE and no SILENCE moves (spec/40_apu_writes.md, opening; R403) -/

/-- The parts of a pulse channel that only rendering moves. -/
def Pulse.synthesis (x : Pulse) : PulseOsc × BitVec 4 × BitVec 4 × BitVec 3 :=
  (x.osc, x.env.divider, x.env.decay, x.sweep.divider)

/-- The parts of the noise channel that only rendering moves. -/
def Noise.synthesis (x : Noise) : BitVec 15 × ℚ × BitVec 4 × BitVec 4 :=
  (x.lfsr, x.count, x.env.divider, x.env.decay)

/-- A map of the block that leaves alone every part that only rendering moves. -/
structure KeepsSynthesis (f : Block → Block) : Prop where
  pulse : ∀ b p, ((f b).pulse p).synthesis = (b.pulse p).synthesis
  tri_phase : ∀ b, (f b).tri.phase = b.tri.phase
  noise : ∀ b, (f b).noise.synthesis = b.noise.synthesis
  countdown : ∀ b, (f b).fs.countdown = b.fs.countdown
  hb : ∀ b, (f b).hb = b.hb
  dc : ∀ b, (f b).dc = b.dc
  rng : ∀ b, (f b).rng = b.rng

namespace KeepsSynthesis

theorem id : KeepsSynthesis id := by constructor <;> intros <;> rfl

theorem store (r d : Byte) : KeepsSynthesis (·.store r d) := by
  constructor <;> simp

/-- A store, and a pulse channel changed in its timer, length and flags alone. -/
theorem store_setPulse (r d : Byte) (p : PulseIx) {g : Pulse → Pulse}
    (hg : ∀ x, (g x).synthesis = x.synthesis) :
    KeepsSynthesis fun b => (b.store r d).setPulse p (g (b.pulse p)) where
  pulse b q := by cases p <;> cases q <;> simp [hg]
  tri_phase := by simp
  noise := by simp
  countdown := by simp
  hb := by simp
  dc := by simp
  rng := by simp

theorem writePulseSweep (p : PulseIx) (d : Byte) : KeepsSynthesis (Machine.writePulseSweep p d) :=
  store_setPulse _ d p fun _ => rfl

theorem writePulseTlo (p : PulseIx) (d : Byte) : KeepsSynthesis (Machine.writePulseTlo p d) :=
  store_setPulse _ d p (g := fun x => { x with timer := withTimerLow x.timer d }) fun _ => rfl

theorem writePulseLen (c : Config) (p : PulseIx) (d : Byte) :
    KeepsSynthesis (Machine.writePulseLen c p d) :=
  store_setPulse _ d p (g := fun x => { x with
    timer := withTimerHigh x.timer d, length := lengthLoad c d, env := envStart x.env }) fun _ => rfl

theorem writeTriTlo (d : Byte) : KeepsSynthesis (Machine.writeTriTlo d) :=
  { store 0x0A d with tri_phase := fun _ => rfl }

theorem writeTriLen (c : Config) (d : Byte) : KeepsSynthesis (Machine.writeTriLen c d) :=
  { store 0x0B d with tri_phase := fun _ => rfl }

theorem writeNoiseLen (c : Config) (d : Byte) : KeepsSynthesis (Machine.writeNoiseLen c d) :=
  { store 0x0F d with noise := fun _ => rfl }

theorem writeFrame (d : Byte) : KeepsSynthesis (Machine.writeFrame d) :=
  { store 0x17 d with countdown := fun _ => rfl }

end KeepsSynthesis

/-- Every command but RENDER is a map of the block alone that leaves the synthesis where it was. -/
theorem exec_eq_mapBlock {i : Instr} (hi : ∀ n, i ≠ .render n) :
    ∃ f, KeepsSynthesis f ∧ ∀ s, exec i s = .next (s.mapBlock f) := by
  cases i with
  | render n => exact absurd rfl (hi n)
  | writeP1Sweep d | writeP2Sweep d => exact ⟨_, .writePulseSweep _ d, fun _ => rfl⟩
  | writeP1Tlo d | writeP2Tlo d => exact ⟨_, .writePulseTlo _ d, fun _ => rfl⟩
  | writeP1Len d | writeP2Len d => exact ⟨_, .writePulseLen _ _ d, fun _ => rfl⟩
  | writeTriTlo d => exact ⟨_, .writeTriTlo d, fun _ => rfl⟩
  | writeTriLen d => exact ⟨_, .writeTriLen _ d, fun _ => rfl⟩
  | writeNoiseLen d => exact ⟨_, .writeNoiseLen _ d, fun _ => rfl⟩
  | writeFrame d => exact ⟨_, .writeFrame d, fun _ => rfl⟩
  | writeIgn18 | writeIgn20 | writeIgn40 | writeIgn80 => exact ⟨_, .id, fun _ => rfl⟩
  | _ => exact ⟨_, .store _ _, fun _ => rfl⟩

/-- Settles O22: such a command is a map of the block that keeps the synthesis. -/
theorem onlyRenderAdvancesTheSynthesis : Obligations.OnlyRenderAdvancesTheSynthesis := by
  intro i s t hi h
  obtain ⟨f, hf, hexec⟩ := exec_eq_mapBlock hi
  obtain rfl : s.mapBlock f = t := by simpa [hexec s] using h
  obtain ⟨ho1, hdiv1, hdec1, hsw1⟩ : _ ∧ _ ∧ _ ∧ _ := by
    simpa [Pulse.synthesis] using hf.pulse s.blk .p1
  obtain ⟨ho2, hdiv2, hdec2, hsw2⟩ : _ ∧ _ ∧ _ ∧ _ := by
    simpa [Pulse.synthesis] using hf.pulse s.blk .p2
  obtain ⟨hlfsr, hcount, hdivn, hdecn⟩ : _ ∧ _ ∧ _ ∧ _ := by
    simpa [Noise.synthesis] using hf.noise s.blk
  exact ⟨ho1, ho2, hf.tri_phase _, hlfsr, hcount, hdiv1, hdec1, hdiv2, hdec2, hdivn, hdecn, hsw1, hsw2,
    hf.countdown _, hf.hb _, hf.dc _, hf.rng _, rfl, rfl, rfl, rfl⟩

/-! RENDER (R401, R402) -/

/-- Settles O23: no buffer is shorter than 0, and no sample is rendered. -/
theorem renderZeroIsANoOp : Obligations.RenderZeroIsANoOp := fun s =>
  execRender_of_le (Nat.zero_le s.out.size)

/-- A rendered element depends on what it held, on its place within the RENDER and on the block at the
RENDER's start, not on how many samples are rendered. -/
theorem renderFrom_read_congr (c : Config) {m n j k : Nat} {r r' : Rendering} (hwf : r.out.wf = true)
    (hwf' : r'.out.wf = true) (hm : m ≤ r.out.size) (hn : n ≤ r'.out.size) (hj : j < m) (hk : k < n)
    (hread : r.out.read j = r'.out.read k)
    (hblk : afterSamples c j r.blk = afterSamples c k r'.blk) :
    (renderFrom c 0 m r).out.read j = (renderFrom c 0 n r').out.read k := by
  have h := renderFrom_read_add c (i := 0) hwf (by omega) hj
  have h' := renderFrom_read_add c (i := 0) hwf' (by omega) hk
  rw [Nat.zero_add] at h h'
  exact BitVec.eq_of_toInt_eq (by rw [h, h', hread, hblk])

/-- Settles O25: the second RENDER starts from the block that the first leaves. -/
theorem splitRenderIsExact : Obligations.SplitRenderIsExact := by
  intro a b s m hwf hsize hm hb hread
  have ha : a ≤ s.out.size := by omega
  refine ⟨_, _, _, execRender_of_le hsize, execRender_of_le ha, execRender_of_le hb, ?_,
    fun i hi => ?_, fun i hi => ?_⟩
  · simp only [renderInto_blk, renderFrom_blk, afterSamples_add]
  · exact renderFrom_read_congr _ hwf hwf hsize ha (by omega) hi rfl rfl
  · refine renderFrom_read_congr _ hwf hm hsize hb (by omega) hi (hread i hi).symm ?_
    rw [renderInto_blk, renderFrom_blk, afterSamples_add]

/-! The filter after SILENCE (R403) -/

/-- The newest `k` entries of the delay line are 0. -/
def ZeroFirst (k : Nat) (hb : Vector ℚ 9) : Prop := ∀ i : Fin 9, i.val < k → hb[i] = 0

theorem ZeroFirst.pushSample {k : Nat} {hb : Vector ℚ 9} (h : ZeroFirst k hb) :
    ZeroFirst (k + 1) (Machine.pushSample hb 0) := by
  intro i hi
  cases i using Fin.cases with
  | zero => rfl
  | succ j =>
    have hj : (Machine.pushSample hb 0)[j.succ] = hb[j.castSucc] :=
      pushSample_getElem_succ hb 0 j.isLt
    rw [hj]
    exact h j.castSucc (by simpa using hi)

theorem afterSamples_status (c : Config) (n : Nat) (b : Block) :
    (afterSamples c n b).status = b.status := by
  rw [Block.status, afterSamples_regs, Block.status]

/-- With no channel enabled an output sample pushes two zeros (spec/43_mixer.md R350, R351). -/
theorem ZeroFirst.synthesise {k : Nat} {b : Block} (hs : b.status = 0) (h : ZeroFirst k b.hb) :
    ZeroFirst (k + 2) (Machine.synthesise Config.defaults b).hb := by
  have hs' : (frameCountdown Config.defaults b).status = 0 := by
    rw [Block.status, frameCountdown_regs]
    exact hs
  rw [synthesise_defaults, amplitudes_of_status_zero hs']
  simp only [internalSample_hb, mixSum_zero, frameCountdown_hb]
  exact h.pushSample.pushSample

theorem ZeroFirst.afterSamples (n : Nat) {k : Nat} {b : Block} (hs : b.status = 0)
    (h : ZeroFirst k b.hb) : ZeroFirst (k + 2 * n) (Machine.afterSamples Config.defaults n b).hb := by
  induction n generalizing k b with
  | zero => exact h
  | succ n ih =>
    have hs' : (sampleState Config.defaults b).status = 0 := (afterSamples_status _ 1 b).trans hs
    rw [Nat.mul_succ, Nat.add_comm (2 * n) 2, ← Nat.add_assoc]
    exact ih hs' (h.synthesise hs)

/-- The oldest entry has coefficient 0 (spec/43_mixer.md R357). -/
theorem decimate_of_zeroFirst {k : Nat} (hk : 8 ≤ k) {hb : Vector ℚ 9} (h : ZeroFirst k hb) :
    decimate Config.defaults hb = 0 := by
  have h1 : hb[1] = 0 := h 1 (by omega)
  have h3 : hb[3] = 0 := h 3 (by omega)
  have h4 : hb[4] = 0 := h 4 (by omega)
  have h5 : hb[5] = 0 := h 5 (by omega)
  have h7 : hb[7] = 0 := h 7 (by omega)
  rw [decimate_defaults, h1, h3, h4, h5, h7]
  norm_num

/-- Settles O49: four output samples push eight zeros, and the ninth coefficient is 0. -/
theorem silenceEmptiesTheFilter : Obligations.SilenceEmptiesTheFilter := by
  intro s t h n hn
  cases h
  have hs : (s.blk.store 0x15 0x00).status = 0 := s.blk.store_regs_get 0x15 0x00 0x15
  have hzero : ZeroFirst 0 (s.blk.store 0x15 0x00).hb := fun _ hi => absurd hi (Nat.not_lt_zero _)
  have hn8 : 8 ≤ 0 + 2 * n + 2 := by omega
  exact decimate_of_zeroFirst hn8
    ((hzero.afterSamples n hs).synthesise ((afterSamples_status _ _ _).trans hs))

end Sys2Proof.Machine
end

section
/-! SILENCE and the gates (spec/70_reset_and_hazards.md R462, spec/44_control.md R403; O21): with the status
register clear the gates stay closed through any rendering, for no output sample writes a register. -/

namespace Sys2Proof.Machine

theorem silence_stores : Stores .silence 0x15 0x00 := ⟨0x15, rfl, fun _ => rfl⟩

/-- The amplitudes an output sample uses, after any number of samples with no channel enabled
(spec/43_mixer.md R350 steps 1 and 2). -/
theorem amplitudes_afterSamples_of_status_zero (c : Config) (n : Nat) {b : Block} (hs : b.status = 0) :
    amplitudes c (frameCountdown c (afterSamples c n b)) = ⟨0, 0, 0, 0⟩ := by
  have hafter : (afterSamples c n b).status = 0 := (afterSamples_status c n b).trans hs
  have hcountdown : (frameCountdown c (afterSamples c n b)).status = 0 := by
    rw [Block.status, frameCountdown_regs]
    exact hafter
  exact amplitudes_of_status_zero hcountdown c

/-- Settles O21: SILENCE is a plain store of 0 in the status register, and no sample writes it again. -/
theorem silenceClearsOnlyTheStatus : Obligations.SilenceClearsOnlyTheStatus := by
  intro s
  obtain ⟨t, hexec, hregs, hframe, hout⟩ := silence_stores.exec s
  have hs : t.blk.status = 0 := hregs 0x15
  exact ⟨t, hexec, hregs, hframe, hout, fun n => amplitudes_afterSamples_of_status_zero _ n hs⟩

end Sys2Proof.Machine
end
